-- ==== Sys2Proof/Word.lean ====
section
/-! DEFINITION. The word type of SHA1-CORE (00_scope.md R9, R13: every datum is an unsigned 32-bit word, bit 0 the
least significant). Addition modulo 2^32 (R14) and the bitwise operations (R16) are those of `BitVec 32`. -/

namespace Sys2Proof

/-- A 32-bit word (R9). Addition on it is the spec's `+32` (R14), with no carry kept. -/
abbrev Word := BitVec 32

/-- A byte of the host's message (R100); the core itself sees no bytes (R55). -/
abbrev Byte := BitVec 8

end Sys2Proof
end

