-- ==== Sys2Proof/Syntax.lean ====
section
/-! DEFINITION. Commands as the host sends them, the nine commands of the opcode map as syntax, and the causes for
which a command word is illegal. -/

namespace Sys2Proof

/-- One command as transferred on the command port (R70): a 16-bit command word and a 32-bit data word. -/
structure Command where
  cw : BitVec 16
  data : Word
deriving DecidableEq, Repr

/-- The nine commands, one constructor per row of spec/opcode_table.json (R75). An index operand is the 7-bit IDX
field (R71); a data operand is the whole data word (R72). Commands that ignore the data word do not carry it. -/
inductive Instr where
  /-- no operation (R181) -/
  | nop
  /-- load the initial digest state (R182) -/
  | init
  /-- write block-buffer word `j` (R120) -/
  | wrw (j : BitVec 7) (d : Word)
  /-- expand the block, run eighty rounds, fold (R162) -/
  | proc
  /-- write digest register `i` (R183) -/
  | wrh (i : BitVec 7) (d : Word)
  /-- read digest register `i` (R184) -/
  | rdh (i : BitVec 7)
  /-- read schedule word `t` (R139) -/
  | rdw (t : BitVec 7)
  /-- read the status register (R186) -/
  | rdst
  /-- clear the status register (R187) -/
  | clrerr
deriving DecidableEq, Repr

/-- The illegal-command causes (R201). -/
inductive Cause where
  /-- opcode `0x9`..`0xF` -/
  | reservedOp
  /-- a reserved bit `CW[11:7]` set -/
  | reservedBits
  /-- an index outside the opcode's range -/
  | badIndex
deriving DecidableEq, Repr

end Sys2Proof
end

