-- ==== Sys2Proof/WellFormed.lean ====
section
/-! DEFINITION. The operand ranges of R75 as a check on instruction terms. A term outside them has a command word
that is illegal with cause BAD_INDEX (R201). -/

namespace Sys2Proof

/-- The index operand lies in the range R75 gives the command. -/
def Instr.wellFormed : Instr → Bool
  | .nop => true
  | .init => true
  | .wrw j _ => decide (j.toNat ≤ 15)
  | .proc => true
  | .wrh i _ => decide (i.toNat ≤ 4)
  | .rdh i => decide (i.toNat ≤ 4)
  | .rdw t => decide (t.toNat ≤ 79)
  | .rdst => true
  | .clrerr => true

end Sys2Proof
end

