-- ==== Sys2Proof/Decode.lean ====
section
/-! DEFINITION. From a command to an instruction or a named cause of illegality (30_encoding.md R70 to R79,
60_exceptions.md R201, R202), and the encoder from the same tables. The decoder is total: each of the 65,536 command
words has a result (R77). -/

namespace Sys2Proof

/-- `OP = CW[15:12]` (R71). -/
def opField (cw : BitVec 16) : BitVec 4 := cw.extractLsb' 12 4

/-- `RSV = CW[11:7]` (R71). -/
def rsvField (cw : BitVec 16) : BitVec 5 := cw.extractLsb' 7 5

/-- `IDX = CW[6:0]` (R71); its value as a natural number is the unsigned index of R72. -/
def idxField (cw : BitVec 16) : BitVec 7 := cw.extractLsb' 0 7

/-- `limit(OP)` of R201: the first index outside the opcode's range. For a reserved opcode the value is not used. -/
def indexLimit (op : BitVec 4) : Nat :=
  match op.toNat with
  | 2 => 16
  | 4 => 5
  | 5 => 5
  | 6 => 80
  | _ => 1

/-- The legality check of R202: the first cause that applies, in the order RESERVED_OP, RESERVED_BITS, BAD_INDEX. -/
def illegalCause (cw : BitVec 16) : Option Cause :=
  if 9 ≤ (opField cw).toNat then some .reservedOp
  else if rsvField cw ≠ 0 then some .reservedBits
  else if indexLimit (opField cw) ≤ (idxField cw).toNat then some .badIndex
  else none

/-- What a command stands for: a legal command, or an illegal one with its cause. -/
inductive Decoded where
  | legal (i : Instr)
  | illegal (k : Cause)
deriving DecidableEq, Repr

/-- The opcode map of R75 for a command word that has passed the legality check. -/
def decodeOp (op : BitVec 4) (idx : BitVec 7) (data : Word) : Decoded :=
  match op.toNat with
  | 0 => .legal .nop
  | 1 => .legal .init
  | 2 => .legal (.wrw idx data)
  | 3 => .legal .proc
  | 4 => .legal (.wrh idx data)
  | 5 => .legal (.rdh idx)
  | 6 => .legal (.rdw idx)
  | 7 => .legal .rdst
  | 8 => .legal .clrerr
  | _ => .illegal .reservedOp

/-- The decoder of R75: the legality check, then the opcode map. -/
def decode (c : Command) : Decoded :=
  match illegalCause c.cw with
  | some k => .illegal k
  | none => decodeOp (opField c.cw) (idxField c.cw) c.data

/-- `CW = {OP, 00000, IDX}` (R73). -/
def commandWord (op : BitVec 4) (idx : BitVec 7) : BitVec 16 := op ++ 0#5 ++ idx

/-- The encoder (R73, R75, R80): a command that ignores the data word is sent with data word 0 (R80). -/
def encode : Instr → Command
  | .nop => ⟨commandWord 0 0, 0⟩
  | .init => ⟨commandWord 1 0, 0⟩
  | .wrw j d => ⟨commandWord 2 j, d⟩
  | .proc => ⟨commandWord 3 0, 0⟩
  | .wrh i d => ⟨commandWord 4 i, d⟩
  | .rdh i => ⟨commandWord 5 i, 0⟩
  | .rdw t => ⟨commandWord 6 t, 0⟩
  | .rdst => ⟨commandWord 7 0, 0⟩
  | .clrerr => ⟨commandWord 8 0, 0⟩

/-- One row of the opcode map's match and mask column (R75). -/
structure OpcodeRow where
  pattern : BitVec 16
  mask : BitVec 16
  /-- the greatest legal index -/
  maxIndex : Nat
deriving DecidableEq, Repr

/-- The match and mask column of R75, in the table's order. -/
def opcodeRows : List OpcodeRow :=
  [⟨0x0000, 0xFFFF, 0⟩, ⟨0x1000, 0xFFFF, 0⟩, ⟨0x2000, 0xFFF0, 15⟩, ⟨0x3000, 0xFFFF, 0⟩, ⟨0x4000, 0xFF80, 4⟩,
   ⟨0x5000, 0xFF80, 4⟩, ⟨0x6000, 0xFF80, 79⟩, ⟨0x7000, 0xFFFF, 0⟩, ⟨0x8000, 0xFFFF, 0⟩]

/-- A row takes a command word when the masked word equals the match value and the index is in range (R75). -/
def OpcodeRow.takes (r : OpcodeRow) (cw : BitVec 16) : Bool :=
  decide (cw &&& r.mask = r.pattern) && decide ((idxField cw).toNat ≤ r.maxIndex)

/-- The command whose bits are `w`, numbered as spec/opcode_table.json numbers them: the command word is bits 15..0 and
the data word counts on from it (bits 47..16), all bits from `nbits` up being 0. -/
def commandOfBits (nbits w : Nat) : Command :=
  let v := w % 2 ^ nbits
  ⟨BitVec.ofNat 16 v, BitVec.ofNat 32 (v / 2 ^ 16)⟩

/-- The instruction the decoder reads from those bits; none where the command is illegal. -/
def decodeTableWord (nbits w : Nat) : Option Instr :=
  match decode (commandOfBits nbits w) with
  | .legal i => some i
  | .illegal _ => none

end Sys2Proof
end

