-- ==== Sys2Proof/Config.lean ====
section
/-! DEFINITION. What the spec leaves to an implementation, and the free values: values the spec calls unspecified.
A free value is an opaque constant applied to a plain counter held in State, so no proof can see what it is. -/

namespace Sys2Proof

/-- The host's length-trailer width, left open (92 D20, 90 C3); rule R105 gives both modes. The model takes it as an
argument (93 I21). It concerns the host reference only. -/
inductive LenMode where
  /-- the low 32 bits only, in the last word -/
  | trunc32
  /-- the standard's 64-bit field, high word first -/
  | full64
deriving DecidableEq, Repr

/-- The reference value of the open parameter `PROC_CYCLES` (R10, R169, R244): how long the reference micro-sequence
stays BUSY after the accept cycle. No definition of the model depends on it; statements about the micro-sequence
name it. -/
def Config.referenceProcCycles : Nat := 81

/-- The digest registers after the `n`-th unspecified event: after a reset edge they are unspecified (R230, R39). -/
opaque Config.freeH : Nat → Vector Word 5
/-- The block buffer after a reset edge: unspecified (R230, R39). -/
opaque Config.freeM : Nat → Vector Word 16
/-- The schedule after a reset edge: unspecified (R230, R39). -/
opaque Config.freeW : Nat → Vector Word 80
/-- The working registers after a reset edge: unspecified (R230, R39). -/
opaque Config.freeWork : Nat → Vector Word 5
/-- The expander window after a reset edge: the spec gives it no value (R38, R230). -/
opaque Config.freeWindow : Nat → Vector Word 16
/-- The round counter while IDLE: unspecified (R25), after a reset edge and when a PROC ends. -/
opaque Config.freeT : Nat → BitVec 7
/-- The round counter in the fold cycle: one of `0..79` (R25); no rule gives which (log entry 5). -/
opaque Config.freeFoldT : Nat → Fin 80
/-- The response word after a reset edge: unspecified (R230, R39). -/
opaque Config.freeRspData : Nat → Word

end Sys2Proof
end

