-- ==== Sys2Proof/Machine/State.lean ====
section
/-! DEFINITION. Every piece of state the spec gives SHA1-CORE (10_state.md R20 to R39), the host's side of its ports
(70_reset_and_hazards.md R242), the stops of the model, and the state after reset (R39, R230). -/

namespace Sys2Proof.Machine

open Sys2Proof

/-- The engine phase (R34). -/
inductive Phase where
  | idle
  | busy
deriving DecidableEq, Repr

/-- The working registers `A, B, C, D, E` (R24). -/
structure Work where
  a : Word
  b : Word
  c : Word
  d : Word
  e : Word
deriving DecidableEq, Repr

/-- What the host drives at one rising edge on the one-bit input ports `rst_n`, `cmd_valid` and `rsp_ready` (R242). The
command that `cmd_word` and `cmd_data` carry is the head of `State.cmds`. -/
structure HostDrive where
  rstN : Bool
  cmdValid : Bool
  rspReady : Bool
deriving DecidableEq, Repr

/-- A word whose validity bit a command needs (R37, R210). -/
inductive UndefinedWord where
  | digest (i : Nat)
  | block (j : Nat)
  | schedule
deriving DecidableEq, Repr

/-- The stops of the model. -/
inductive Fault where
  /-- `fault UndefinedRead` of R210, raised by the checked step `stepStrict` only, never by `step`: the chip completes
  such a read. Safe: the checked step stops where the chip goes on with an unspecified value. -/
  | undefinedRead (r : UndefinedWord)
deriving DecidableEq, Repr

/-- The refusals of the model. -/
inductive Refusal where
  /-- an instruction without a meaning, rejected by name in `exec`; no arm of this model raises it. Safe. -/
  | notModelled (mnemonic : String)
deriving DecidableEq, Repr

/-- The machine. The fields up to `phase` are the hardware's; `hDef`, `mDef`, `wDef` are the validity shadow the spec
gives the model (R37); `folding` marks the fold cycle; `host`, `cmds` and `taken` are the
host's side of the ports; `freeCount` numbers the free values. -/
structure State where
  /-- digest state registers (R20) -/
  H : Vector Word 5
  /-- block buffer (R22) -/
  M : Vector Word 16
  /-- message schedule (R23) -/
  W : Vector Word 80
  /-- working registers `A..E` (R24) -/
  work : Work
  /-- round counter (R25) -/
  t : BitVec 7
  /-- the expander's sixteen-word window (R38, R137) -/
  win : Vector Word 16
  /-- status register (R28) -/
  status : Word
  /-- response slot, flag (R33) -/
  rspFull : Bool
  /-- response slot, word (R33) -/
  rspData : Word
  /-- engine phase (R34) -/
  phase : Phase
  /-- while BUSY: the eighty rounds are done and the next cycle is the fold cycle (R169); the model's own field, which the
  sequencer needs since `t` stays in `0..79` (R25; log entry 5) -/
  folding : Bool
  /-- validity of each digest register (R37) -/
  hDef : Vector Bool 5
  /-- validity of each block-buffer word (R37) -/
  mDef : Vector Bool 16
  /-- validity of the schedule (R37) -/
  wDef : Bool
  /-- what the host drives on `rst_n`, `cmd_valid` and `rsp_ready` at each coming edge, the next one first; when empty it
  drives `rst_n = 1`, `cmd_valid = 0`, `rsp_ready = 0` (R242; log entry 8) -/
  host : List HostDrive
  /-- the commands the host still has to send, in order; the first one stands on `cmd_word` and `cmd_data` until it is
  accepted (R240, R242; log entry 8) -/
  cmds : List Command
  /-- the responses the host has taken, oldest first (R241, R242) -/
  taken : List Word
  /-- how many times a free value has been drawn (the model's own field) -/
  freeCount : Nat
deriving DecidableEq, Repr

/-- The machine right after reset (R39, R230): STATUS 0, no response, IDLE, the validity shadow clear. The spec gives
`H`, `M`, `W`, `A..E`, `t`, the window and `RSP_DATA` no value; zero stands for them (DESIGN CHOICE, log entry 1, and
entry 2 for `freeCount`). The host has not yet driven a command (R232). -/
def State.reset : State where
  H := Vector.replicate 5 0#32
  M := Vector.replicate 16 0#32
  W := Vector.replicate 80 0#32
  work := ⟨0, 0, 0, 0, 0⟩
  t := 0
  win := Vector.replicate 16 0#32
  status := 0
  rspFull := false
  rspData := 0
  phase := .idle
  folding := false
  hDef := Vector.replicate 5 false
  mDef := Vector.replicate 16 false
  wDef := false
  host := []
  cmds := []
  taken := []
  freeCount := 0

end Sys2Proof.Machine
end

