-- ==== Sys2Proof/Machine/Flags.lean ====
section
/-! DEFINITION. SHA1-CORE has no flags and no condition codes (10_state.md R35), so no command computes one. This file
holds the fields of its one control register, STATUS (R28 to R32), and the value an illegal command writes (R203). -/

namespace Sys2Proof.Machine

open Sys2Proof

/-- `STATUS.ERR`, bit 0 (R28). -/
def statusErr (st : Word) : Bool := st.getLsbD 0

/-- `STATUS.ECAUSE`, bits 3:1 (R28). -/
def statusCause (st : Word) : BitVec 3 := st.extractLsb' 1 3

/-- `STATUS[15:4]`, reserved (R28, R31). -/
def statusReserved (st : Word) : BitVec 12 := st.extractLsb' 4 12

/-- `STATUS.ECMD`, bits 31:16 (R28). -/
def statusCmd (st : Word) : BitVec 16 := st.extractLsb' 16 16

/-- The code of a cause in `STATUS.ECAUSE` (R30, R201). -/
def causeCode : Cause → BitVec 3
  | .reservedOp => 1
  | .reservedBits => 2
  | .badIndex => 3

/-- `{ CW[15:0], 12'b0, cause[2:0], 1'b1 }` (R203). -/
def packStatus (cw : BitVec 16) (k : Cause) : Word := cw ++ 0#12 ++ causeCode k ++ 1#1

end Sys2Proof.Machine
end

