-- ==== Sys2Proof/Machine/Ops.lean ====
section
/-! DEFINITION. The operations the commands share: rotation, reading and writing one word of an array, placing a
response, taking an illegal command (R203, R204), clearing STATUS, and the reset action (R230). -/

namespace Sys2Proof.Machine

open Sys2Proof

/-- `rotl32(x, n)` (R15). -/
def rotl32 (x : Word) (n : Nat) : Word := (x <<< n) ||| (x >>> (32 - n))

/-- Word `i` of an array. Every caller keeps `i` in range (an index outside a space reaches no word, R51); the default
0 is never reached. -/
def wordAt {n : Nat} (v : Vector Word n) (i : Nat) : Word := (v[i]?).getD 0

/-- The array with word `i` replaced; no word is written where `i` is out of range (R51). -/
def setWord {n : Nat} (v : Vector Word n) (i : Nat) (x : Word) : Vector Word n := v.setIfInBounds i x

/-- Validity bit `i` (R37). -/
def flagAt {n : Nat} (v : Vector Bool n) (i : Nat) : Bool := (v[i]?).getD false

/-- The validity bits with bit `i` set (R37). -/
def setFlag {n : Nat} (v : Vector Bool n) (i : Nat) : Vector Bool n := v.setIfInBounds i true

/-- `respond(v)` (R17, R33). -/
def respond (v : Word) (s : State) : State := { s with rspFull := true, rspData := v }

/-- `M[j] <- d`, with its validity bit (R120). -/
def writeBlock (j : Nat) (d : Word) (s : State) : State :=
  { s with M := setWord s.M j d, mDef := setFlag s.mDef j }

/-- `H[i] <- d`, with its validity bit (R183). -/
def writeDigest (i : Nat) (d : Word) (s : State) : State :=
  { s with H := setWord s.H i d, hDef := setFlag s.hDef i }

/-- The write of STATUS by an illegal command: only while `ERR = 0` (R203, R29). -/
def recordIllegal (cw : BitVec 16) (k : Cause) (s : State) : State :=
  if statusErr s.status then s else { s with status := packStatus cw k }

/-- The opcodes whose illegal commands respond `0x00000000`: RDH, RDW, RDST (R204). -/
def isReadOp (op : BitVec 4) : Bool := op == 5 || op == 6 || op == 7

/-- Taking an illegal command: STATUS records the first one (R203), and a read opcode gets its response 0 (R204). No
other state changes and there is no trap (R206). -/
def illegalCommand (cw : BitVec 16) (k : Cause) (s : State) : State :=
  if isReadOp (opField cw) then respond 0 (recordIllegal cw k s) else recordIllegal cw k s

/-- `STATUS <- 0` (R187): there is no return from a trap (R207); this is the one command that undoes the record. -/
def clearStatus (s : State) : State := { s with status := 0 }

/-- The working registers from five words, in the order `A, B, C, D, E`. -/
def Work.ofDigest (h : Vector Word 5) : Work := ⟨h[0], h[1], h[2], h[3], h[4]⟩

/-- The reset action at an edge with `rst_n = 0` (R230, R231): STATUS, RSP_FULL, the phase and the validity shadow as the
spec says; every register it calls unspecified afterwards takes a free value (log entry 2). -/
def resetRegisters (s : State) : State :=
  { s with
    H := Config.freeH s.freeCount
    M := Config.freeM s.freeCount
    W := Config.freeW s.freeCount
    work := Work.ofDigest (Config.freeWork s.freeCount)
    t := Config.freeT s.freeCount
    win := Config.freeWindow s.freeCount
    status := 0
    rspFull := false
    rspData := Config.freeRspData s.freeCount
    phase := .idle
    folding := false
    hDef := Vector.replicate 5 false
    mDef := Vector.replicate 16 false
    wDef := false
    freeCount := s.freeCount + 1 }

end Sys2Proof.Machine
end

