-- ==== Sys2Proof/Machine/Operands.lean ====
section
/-! DEFINITION. The operand forms (30_encoding.md R72, R74): the index operand, used as the zero-extended number it is,
and the data operand, taken whole. A command with an index first checks its range (60_exceptions.md R201, R202). -/

namespace Sys2Proof.Machine

open Sys2Proof

/-- The index operand `zext_32(CW[6:0])` as a number, `0..127` (R72). -/
def indexOperand (idx : BitVec 7) : Nat := idx.toNat

/-- An instruction with an index: its body where the index is in range, else the illegal-command action for its own
command word with cause BAD_INDEX (R201, R203). -/
def indexed (i : Instr) (idx : BitVec 7) (body : Nat → State → State) (s : State) :
    Host.Outcome State Fault Refusal :=
  if indexOperand idx < indexLimit (opField (encode i).cw) then .next (body (indexOperand idx) s)
  else .next (illegalCommand (encode i).cw .badIndex s)

end Sys2Proof.Machine
end

