-- ==== Sys2Proof/Machine/BlockLoad.lean ====
section
/-! DEFINITION. Block load family (41_block_load.md): WRW. -/

namespace Sys2Proof.Machine

open Sys2Proof

/-- WRW `j`, `d` (R120). -/
def execWrw (j : BitVec 7) (d : Word) (s : State) : Host.Outcome State Fault Refusal :=
  indexed (.wrw j d) j (fun k u => writeBlock k d u) s

end Sys2Proof.Machine
end

