-- ==== Sys2Proof/Machine/Expander.lean ====
section
/-! DEFINITION. Message schedule expander (42_schedule_expander.md): the expansion function, the window of the reference
realisation, and RDW. -/

namespace Sys2Proof.Machine

open Sys2Proof

/-- The recurrence of R131 at `t`: `rotl32(w[t-3] ^ w[t-8] ^ w[t-14] ^ w[t-16], 1)`. -/
def scheduleWord (w : Vector Word 80) (t : Nat) : Word :=
  rotl32 (wordAt w (t - 3) ^^^ wordAt w (t - 8) ^^^ wordAt w (t - 14) ^^^ wordAt w (t - 16)) 1

/-- The schedule after the words `16 .. 15 + n` have been computed in order. -/
def expandUpTo (w : Vector Word 80) : Nat → Vector Word 80
  | 0 => w
  | n + 1 => setWord (expandUpTo w n) (16 + n) (scheduleWord (expandUpTo w n) (16 + n))

/-- The eighty-word store with the sixteen block words in place and nothing computed yet. -/
def scheduleStart (m : Vector Word 16) : Vector Word 80 := m ++ Vector.replicate 64 0#32

/-- `Expand(M)` (R130, R131), in the precomputed form (93 I15). -/
def expand (m : Vector Word 16) : Vector Word 80 := expandUpTo (scheduleStart m) 64

/-- The schedule word the window delivers in round `t` (R137). -/
def windowWord (win : Vector Word 16) (t : Nat) : Word :=
  if t < 16 then wordAt win t
  else rotl32 (wordAt win 13 ^^^ wordAt win 8 ^^^ wordAt win 2 ^^^ wordAt win 0) 1

/-- The window moved on by one word (R137). -/
def shiftWindow (win : Vector Word 16) (w : Word) : Vector Word 16 :=
  Vector.ofFn fun k : Fin 16 => if k.val < 15 then wordAt win (k.val + 1) else w

/-- The window after round `t` (R137): unchanged in rounds 0..15. -/
def nextWindow (win : Vector Word 16) (t : Nat) : Vector Word 16 :=
  if t < 16 then win else shiftWindow win (windowWord win t)

/-- The last sixteen schedule words: what the window holds after round 79 (R137: `win[k] = w[t-15+k]`). -/
def lastWindow (w : Vector Word 80) : Vector Word 16 :=
  Vector.ofFn fun k : Fin 16 => wordAt w (64 + k.val)

/-- RDW `t` (R139). -/
def execRdw (t : BitVec 7) (s : State) : Host.Outcome State Fault Refusal :=
  indexed (.rdw t) t (fun k u => respond (wordAt u.W k) u) s

end Sys2Proof.Machine
end

