-- ==== Sys2Proof/Machine/Rom.lean ====
section
/-! DEFINITION. The two read-only stores (10_state.md R26, R27). The spec gives the values and says that they are
general knowledge, corroborated by the source's two digests (PRESUMED, log entry 3). -/

namespace Sys2Proof.Machine

open Sys2Proof

/-- `K(t) = K[t / 20]`, the round-constant ROM (R26, R154). -/
def roundConstant (t : Nat) : Word :=
  match t / 20 with
  | 0 => 0x5A827999
  | 1 => 0x6ED9EBA1
  | 2 => 0x8F1BBCDC
  | _ => 0xCA62C1D6

/-- `IV[0..4]`, the initial-value ROM (R27). -/
def ivRom : Vector Word 5 := #v[0x67452301, 0xEFCDAB89, 0x98BADCFE, 0x10325476, 0xC3D2E1F0]

end Sys2Proof.Machine
end

