-- ==== Sys2Proof/Machine/Compressor.lean ====
section
/-! DEFINITION. Compression engine (43_compression_engine.md): round functions, one round, eighty rounds, the fold, and
the command PROC as one atomic step. -/

namespace Sys2Proof.Machine

open Sys2Proof

/-- choose (R150). -/
def choose (b c d : Word) : Word := (b &&& c) ||| (~~~b &&& d)

/-- parity (R151). -/
def parity (b c d : Word) : Word := b ^^^ c ^^^ d

/-- majority (R152). -/
def majority (b c d : Word) : Word := (b &&& c) ||| (b &&& d) ||| (c &&& d)

/-- `f(t, b, c, d)`, selected by `t / 20` (R153). -/
def roundFunction (t : Nat) (b c d : Word) : Word :=
  match t / 20 with
  | 0 => choose b c d
  | 1 => parity b c d
  | 2 => majority b c d
  | _ => parity b c d

/-- The round sum `temp` (R155). -/
def roundSum (t : Nat) (x : Work) (w : Word) : Word :=
  rotl32 x.a 5 + roundFunction t x.b x.c x.d + x.e + w + roundConstant t

/-- `Round(t, (A,B,C,D,E), w)` (R156, R157): a simultaneous assignment. -/
def roundStep (t : Nat) (x : Work) (w : Word) : Work := ⟨roundSum t x w, x.a, rotl32 x.b 30, x.c, x.d⟩

/-- `S_n` of R160: the working registers after rounds `0 .. n-1`, in order (R158). -/
def roundsUpTo (w : Vector Word 80) (x : Work) : Nat → Work
  | 0 => x
  | n + 1 => roundStep n (roundsUpTo w x n) (wordAt w n)

/-- `Rounds(H, W) = S_80` (R159, R160). -/
def rounds (h : Vector Word 5) (w : Vector Word 80) : Work := roundsUpTo w (Work.ofDigest h) 80

/-- The fold (R161). -/
def fold (h : Vector Word 5) (x : Work) : Vector Word 5 :=
  #v[h[0] + x.a, h[1] + x.b, h[2] + x.c, h[3] + x.d, h[4] + x.e]

/-- The function of one block (R4): the digest state after a PROC. -/
def compress (h : Vector Word 5) (m : Vector Word 16) : Vector Word 5 := fold h (rounds h (expand m))

/-- The body of PROC (R162): `W`, `A..E`, `H` and the shadow bit `Wdef` as the rule says, every right-hand side read
before the command; no fold is left to do. The window holds what R137 leaves in it (log entry 4); the round counter is unspecified while IDLE
(R25) and takes a free value (log entry 2). -/
def processBlock (s : State) : State :=
  { s with
    W := expand s.M
    work := rounds s.H (expand s.M)
    H := compress s.H s.M
    wDef := true
    win := lastWindow (expand s.M)
    t := Config.freeT s.freeCount
    folding := false
    freeCount := s.freeCount + 1 }

/-- PROC (R162). -/
def execProc (s : State) : Host.Outcome State Fault Refusal := .next (processBlock s)

end Sys2Proof.Machine
end

