-- ==== Sys2Proof/Machine/StateAccess.lean ====
section
/-! DEFINITION. State access family (44_state_access.md): NOP, INIT, WRH, RDH, RDST, CLRERR. -/

namespace Sys2Proof.Machine

open Sys2Proof

/-- NOP (R181). -/
def execNop (s : State) : Host.Outcome State Fault Refusal := .next s

/-- INIT (R182). -/
def execInit (s : State) : Host.Outcome State Fault Refusal :=
  .next { s with H := ivRom, hDef := Vector.replicate 5 true }

/-- WRH `i`, `d` (R183). -/
def execWrh (i : BitVec 7) (d : Word) (s : State) : Host.Outcome State Fault Refusal :=
  indexed (.wrh i d) i (fun k u => writeDigest k d u) s

/-- RDH `i` (R184). -/
def execRdh (i : BitVec 7) (s : State) : Host.Outcome State Fault Refusal :=
  indexed (.rdh i) i (fun k u => respond (wordAt u.H k) u) s

/-- RDST (R186). -/
def execRdst (s : State) : Host.Outcome State Fault Refusal := .next (respond s.status s)

/-- CLRERR (R187). -/
def execClrerr (s : State) : Host.Outcome State Fault Refusal := .next (clearStatus s)

end Sys2Proof.Machine
end

