-- ==== Sys2Proof/Machine/Dispatch.lean ====
section
/-! DEFINITION. One arm per command of the opcode map (30_encoding.md R75). -/

namespace Sys2Proof.Machine

open Sys2Proof

/-- What each command does to the machine (R75: the rule of its row). -/
def exec (i : Instr) (s : State) : Host.Outcome State Fault Refusal :=
  match i with
  | .nop => Sys2Proof.Machine.execNop s
  | .init => Sys2Proof.Machine.execInit s
  | .wrw j d => Sys2Proof.Machine.execWrw j d s
  | .proc => Sys2Proof.Machine.execProc s
  | .wrh k d => Sys2Proof.Machine.execWrh k d s
  | .rdh k => Sys2Proof.Machine.execRdh k s
  | .rdw t => Sys2Proof.Machine.execRdw t s
  | .rdst => Sys2Proof.Machine.execRdst s
  | .clrerr => Sys2Proof.Machine.execClrerr s

end Sys2Proof.Machine
end

