-- ==== Sys2Proof/Machine/Engine.lean ====
section
/-! DEFINITION. The reference micro-sequence of PROC (43_compression_engine.md R166 to R169): the accept cycle, a round
cycle, the fold cycle, and one clock cycle of a BUSY engine. -/

namespace Sys2Proof.Machine

open Sys2Proof

/-- The accept cycle of PROC (R166). -/
def acceptProc (s : State) : State :=
  { s with phase := .busy, folding := false, work := Work.ofDigest s.H, win := s.M, t := 0 }

/-- The round counter after a round: `t <- t + 1` (R167), kept in `0..79` as R25 says of a BUSY engine. After round 79,
where R167 alone would give 80, no rule gives a value in that range, and `t` takes a free one (log entry 5). -/
def nextCount (s : State) : BitVec 7 :=
  if s.t.toNat < 79 then s.t + 1 else BitVec.ofNat 7 (Config.freeFoldT s.freeCount).val

/-- A round cycle (R167): the window's word goes to the schedule store and to round `t`, and `t` counts on. After round
79 the fold cycle is next (R169). -/
def roundCycle (s : State) : State :=
  { s with
    W := setWord s.W s.t.toNat (windowWord s.win s.t.toNat)
    work := roundStep s.t.toNat s.work (windowWord s.win s.t.toNat)
    win := nextWindow s.win s.t.toNat
    t := nextCount s
    folding := decide (79 ≤ s.t.toNat) }

/-- The fold cycle (R169): `H` accumulates, the phase returns to IDLE, and `t` becomes unspecified (R25). `Wdef` is set as
R162 says. -/
def foldCycle (s : State) : State :=
  { s with
    H := fold s.H s.work
    wDef := true
    phase := .idle
    folding := false
    t := Config.freeT s.freeCount
    freeCount := s.freeCount + 1 }

/-- One cycle of a BUSY engine: rounds `0..79` (R167), then the fold (R169). A BUSY engine with `t` above 79, which R25
excludes and no clock edge gives, folds. -/
def engineCycle (s : State) : State := if s.folding = false ∧ s.t.toNat < 80 then roundCycle s else foldCycle s

/-- What one clock edge does to the engine when no command is accepted: an IDLE engine holds its state (R217). -/
def engineTick (s : State) : State :=
  match s.phase with
  | .idle => s
  | .busy => engineCycle s

end Sys2Proof.Machine
end

