-- ==== Sys2Proof/Machine/Accept.lean ====
section
/-! DEFINITION. What an accepted command does: the legality check first, then the command's rule or the illegal-command
action (60_exceptions.md R202), at the transaction level (00_scope.md R12) and at the level of clock cycles. -/

namespace Sys2Proof.Machine

open Sys2Proof

/-- An accepted command as one atomic step (R12, R202, R203). -/
def performCommand (c : Command) (s : State) : Host.Outcome State Fault Refusal :=
  match decode c with
  | .legal i => exec i s
  | .illegal k => .next (illegalCommand c.cw k s)

/-- An accepted command at the level of clock cycles: PROC only starts (R166); every other command completes in the
cycle it is accepted (R34, R244). -/
def performCycle (c : Command) (s : State) : Host.Outcome State Fault Refusal :=
  match decode c with
  | .legal .proc => .next (acceptProc s)
  | _ => performCommand c s

/-- The drive that offers the command on the port and takes no response. -/
def offerDrive : HostDrive := ⟨true, true, false⟩

/-- The drive that takes a response and offers nothing. -/
def takeDrive : HostDrive := ⟨true, false, true⟩

/-- The machine with `c` on its command port and able to accept it at the next edge (R242). -/
def offered (c : Command) (s : State) : State :=
  { s with host := offerDrive :: s.host, cmds := c :: s.cmds, phase := .idle, rspFull := false }

end Sys2Proof.Machine
end

