-- ==== Sys2Proof/Machine/Interface.lean ====
section
/-! DEFINITION. The ports and the handshake (70_reset_and_hazards.md R230, R231, R240 to R242). `State.host` lists what
the host drives at the coming edges, `State.cmds` the commands it sends. -/

namespace Sys2Proof.Machine

open Sys2Proof

/-- What the host drives at the coming edge; nothing when the list has ended (log entry 8). -/
def nextDrive (s : State) : HostDrive := s.host.headD ⟨true, false, false⟩

/-- The command offered at an edge: where `cmd_valid = 1`, the one on `cmd_word` and `cmd_data` (R242). -/
def offeredCommand (p : HostDrive) (s : State) : Option Command := if p.cmdValid then s.cmds.head? else none

/-- `cmd_ready` (R242): exactly when `rst_n = 1`, the phase is IDLE and `RSP_FULL = 0`. -/
def cmdReady (rstN : Bool) (s : State) : Bool := rstN && s.phase == .idle && !s.rspFull

/-- `rsp_valid` (R242). -/
def rspValid (s : State) : Bool := s.rspFull

/-- A response is taken where `rsp_valid = 1` and `rsp_ready = 1`; that sets `RSP_FULL <- 0` (R242). The taken word joins
the host's list. -/
def takeResponse (ready : Bool) (s : State) : State :=
  if s.rspFull && ready then { s with rspFull := false, taken := s.taken ++ [s.rspData] } else s

/-- A rising edge with `rst_n = 0`: the reset action, whatever the core is doing (R230, R231). An offered command is not
accepted and stays on the port (R205, R231). A response that the host takes at this very edge, `rsp_valid = 1` and
`rsp_ready = 1`, counts as taken, since R242 puts no condition on `rst_n`; any other pending response is lost (R231).
That reading of the two rules together is the model's (DEDUCED, log entry 16). -/
def resetEdge (p : HostDrive) (s : State) : State := resetRegisters (takeResponse p.rspReady s)

/-- An edge with `rst_n = 1` that accepts no command: a BUSY engine makes one cycle, a response may be taken, an offered
command stays on the port (R240 to R242). -/
def waitEdge (p : HostDrive) (s : State) : State := takeResponse p.rspReady (engineTick s)

/-- One rising edge, with `perform` for what an accepted command does. The edge uses up what the host drives at it; a
command leaves the port when it is accepted, and only then. -/
def edge (perform : Command → State → Host.Outcome State Fault Refusal) (s : State) :
    Host.Outcome State Fault Refusal :=
  let p := nextDrive s
  let u := { s with host := s.host.tail }
  if p.rstN then
    match offeredCommand p s with
    | some c => if cmdReady p.rstN s then perform c { u with cmds := s.cmds.tail } else .next (waitEdge p u)
    | none => .next (waitEdge p u)
  else .next (resetEdge p u)

end Sys2Proof.Machine
end

