-- ==== Sys2Proof/Machine/Step.lean ====
section
/-! DEFINITION. One step of the machine: one edge of the interface, an accepted command being one atomic step
(00_scope.md R12). -/

namespace Sys2Proof.Machine

open Sys2Proof

/-- One step (R12, R61, R242). In a state that is BUSY, which no step from an IDLE one gives, it is one cycle of the
micro-sequence. -/
def step (s : State) : Host.Outcome State Fault Refusal := edge performCommand s

/-- The machine with the command whose bits are `w` next on its command port (log entry 6). SHA1-CORE fetches nothing
(R21, R64): the host offers commands, and one is accepted when the phase is IDLE and no response is pending (R242). -/
def State.withFetchWord (s : State) (nbits w : Nat) : State := offered (commandOfBits nbits w) s

end Sys2Proof.Machine
end

