-- ==== Sys2Proof/Machine/HostReference.lean ====
section
/-! DEFINITION. The host-side reference of 40_host_reference.md: capacity check, padding, block assembly, length
trailer, the command sequence that drives the core, and the rendering of the digest. It is not hardware (00_scope.md
R6); SHA1-CORE checks none of it. -/

namespace Sys2Proof.HostRef

open Sys2Proof

/-- The number of blocks for a message of `n` bytes (R102). -/
def blockCount (n : Nat) : Nat :=
  if (8 * n + 1) % 512 > 448 then (8 * n + 1) / 512 + 1 + 1 else (8 * n + 1) / 512 + 1

/-- `byte(i)` of the padded message (R104): the message, the marker `0x80`, then zeros. -/
def paddedByte (msg : List Byte) (i : Nat) : Byte :=
  if i < msg.length then msg.getD i 0 else if i = msg.length then 0x80 else 0x00

/-- `P[k]` before the trailer (R104, R55): four bytes, big-endian. -/
def assembledWord (msg : List Byte) (k : Nat) : Word :=
  paddedByte msg (4 * k) ++ paddedByte msg (4 * k + 1) ++ paddedByte msg (4 * k + 2) ++ paddedByte msg (4 * k + 3)

/-- `P[k]` of a message of `n` bytes with the length trailer written (R105). -/
def paddedWord (mode : LenMode) (msg : List Byte) (k : Nat) : Word :=
  if k = 16 * blockCount msg.length - 1 then BitVec.ofNat 32 (8 * msg.length)
  else if k = 16 * blockCount msg.length - 2 then
    match mode with
    | .trunc32 => assembledWord msg k
    | .full64 => BitVec.ofNat 32 (8 * msg.length / 2 ^ 32)
  else assembledWord msg k

/-- Block `b` of the padded message (R107, R121): `M[j] = P[16b + j]`. -/
def block (mode : LenMode) (msg : List Byte) (b : Nat) : Vector Word 16 :=
  Vector.ofFn fun j : Fin 16 => paddedWord mode msg (16 * b + j.val)

/-- The blocks of the padded message, in order. -/
def blocks (mode : LenMode) (msg : List Byte) : List (Vector Word 16) :=
  (List.range (blockCount msg.length)).map (block mode msg)

/-- The host's one error (R101). -/
inductive HostError where
  /-- the input is longer than the capacity: fatal, before any command is issued -/
  | capacityExceeded
deriving DecidableEq, Repr

/-- The pseudo-command `LDBLK` (R81): the sixteen words in index order. -/
def loadBlock (m : Vector Word 16) : List Command :=
  (List.range 16).map fun j => encode (.wrw (BitVec.ofNat 7 j) (Machine.wordAt m j))

/-- The pseudo-command `HASHBLK` (R81). -/
def hashBlock (m : Vector Word 16) : List Command := loadBlock m ++ [encode .proc]

/-- The pseudo-command `LDH` (R81). -/
def loadDigest (h : Vector Word 5) : List Command :=
  (List.range 5).map fun i => encode (.wrh (BitVec.ofNat 7 i) (Machine.wordAt h i))

/-- The pseudo-command `RDDIGEST` (R81). -/
def readDigest : List Command := (List.range 5).map fun i => encode (.rdh (BitVec.ofNat 7 i))

/-- The pseudo-command `RDSCHED` (R81). -/
def readSchedule : List Command := (List.range 80).map fun t => encode (.rdw (BitVec.ofNat 7 t))

/-- The command sequence for a list of blocks (R107). -/
def hashCommands (bs : List (Vector Word 16)) : List Command :=
  encode .init :: (bs.flatMap hashBlock ++ readDigest)

/-- The command sequence for a message, after the capacity check (R101, R107). -/
def messageCommands (mode : LenMode) (maxBytes : Nat) (msg : List Byte) : Except HostError (List Command) :=
  if maxBytes < msg.length then .error .capacityExceeded else .ok (hashCommands (blocks mode msg))

/-- How the host drives the ports for one command: it offers it, and where the opcode is a read it then takes the
response (R109, R204). -/
def drive (c : Command) : List Machine.HostDrive :=
  if Machine.isReadOp (opField c.cw) then [Machine.offerDrive, Machine.takeDrive] else [Machine.offerDrive]

/-- How the host drives a command sequence, in order. -/
def driveAll (cs : List Command) : List Machine.HostDrive := cs.flatMap drive

/-- The digest of a sequence of blocks: the step of one block folded over them in order from the initial state (R4). -/
def digestOfBlocks (bs : List (Vector Word 16)) : Vector Word 5 := bs.foldl Machine.compress Machine.ivRom

/-- The four bytes of a word, big-endian (R56). -/
def wordBytes (w : Word) : List Byte :=
  [w.extractLsb' 24 8, w.extractLsb' 16 8, w.extractLsb' 8 8, w.extractLsb' 0 8]

/-- The digest as twenty bytes (R56, R108). -/
def digestBytes (h : Vector Word 5) : List Byte := h.toList.flatMap wordBytes

/-- An uppercase hexadecimal digit. -/
def hexDigit (d : Nat) : Char := "0123456789ABCDEF".toList.getD d '0'

/-- A word as eight hexadecimal digits, most significant first (R108). -/
def wordHex (w : Word) : List Char :=
  [28, 24, 20, 16, 12, 8, 4, 0].map fun k => hexDigit (w.extractLsb' k 4).toNat

/-- The digest as forty uppercase hexadecimal characters without separators, in register order (R108). -/
def digestHex (h : Vector Word 5) : List Char := h.toList.flatMap wordHex

end Sys2Proof.HostRef
end

