-- ==== Sys2Proof/Machine/Assembler.lean ====
section
/-! DEFINITION. The assembler syntax and the pseudo-commands (30_encoding.md R80, R81): one line of text to the commands
it stands for, or a named refusal. -/

namespace Sys2Proof.Asm

open Sys2Proof

/-- Why the assembler refuses a line. -/
inductive AsmError where
  /-- the first word is no mnemonic, pseudo-command or directive of R80 and R81 -/
  | unknownMnemonic
  /-- the number of operands is not the form's -/
  | wrongOperands
  /-- an operand is no decimal or `0x` hexadecimal number -/
  | badNumber
  /-- an index outside the range of R75 (R80) -/
  | badIndex
  /-- a data word of more than 32 bits, or a command word of more than 16 -/
  | tooWide
deriving DecidableEq, Repr

/-- Blanks between the parts of a line. -/
def isBlank (c : Char) : Bool := c == ' ' || c == '\t'

/-- The text without blanks at its ends. -/
def trim (cs : List Char) : List Char := ((cs.dropWhile isBlank).reverse.dropWhile isBlank).reverse

/-- The text before a comment; `;` starts one (R80). -/
def stripComment (cs : List Char) : List Char := cs.takeWhile fun c => !(c == ';')

/-- The value of a digit character below the base. -/
def digitValue (base : Nat) (c : Char) : Option Nat :=
  let v :=
    if '0'.toNat ≤ c.toNat ∧ c.toNat ≤ '9'.toNat then some (c.toNat - '0'.toNat)
    else if 'a'.toNat ≤ c.toNat ∧ c.toNat ≤ 'f'.toNat then some (c.toNat - 'a'.toNat + 10)
    else if 'A'.toNat ≤ c.toNat ∧ c.toNat ≤ 'F'.toNat then some (c.toNat - 'A'.toNat + 10)
    else none
  v.filter fun d => d < base

/-- Digits, most significant first, onto an accumulator. -/
def digitsValue (base : Nat) : Nat → List Char → Option Nat
  | acc, [] => some acc
  | acc, c :: cs =>
    match digitValue base c with
    | some d => digitsValue base (acc * base + d) cs
    | none => none

/-- A number: decimal, or hexadecimal after `0x` (R80). -/
def number (cs : List Char) : Except AsmError Nat :=
  let v :=
    match cs with
    | [] => none
    | '0' :: 'x' :: ds => if ds.isEmpty then none else digitsValue 16 0 ds
    | ds => digitsValue 10 0 ds
  match v with
  | some n => .ok n
  | none => .error .badNumber

/-- The operands: the text between commas. -/
def splitCommas : List Char → List (List Char)
  | [] => [[]]
  | c :: cs =>
    match splitCommas cs with
    | [] => [[c]]
    | w :: ws => if c == ',' then [] :: w :: ws else (c :: w) :: ws

/-- All operands as numbers, or the first refusal. -/
def numbers : List (List Char) → Except AsmError (List Nat)
  | [] => .ok []
  | w :: ws =>
    match number (trim w), numbers ws with
    | .ok n, .ok ns => .ok (n :: ns)
    | .error e, _ => .error e
    | _, .error e => .error e

/-- The operand numbers of a line's text after the mnemonic. -/
def operands (cs : List Char) : Except AsmError (List Nat) :=
  if (trim cs).isEmpty then .ok [] else numbers (splitCommas cs)

/-- A data word, refused if wider than 32 bits. -/
def dataWord (d : Nat) (k : Word → Except AsmError (List Command)) : Except AsmError (List Command) :=
  if d < 2 ^ 32 then k (BitVec.ofNat 32 d) else .error .tooWide

/-- A command with an index, refused outside the range of R75 rather than emitted (R80). -/
def indexedCommand (limit i : Nat) (f : BitVec 7 → Instr) : Except AsmError (List Command) :=
  if i < limit then .ok [encode (f (BitVec.ofNat 7 i))] else .error .badIndex

/-- A vector of data words, refused unless there are exactly `n` of them, each of 32 bits. -/
def dataWords (n : Nat) (ds : List Nat) (k : Vector Word n → List Command) : Except AsmError (List Command) :=
  if ds.length = n then
    if ds.all fun d => d < 2 ^ 32 then .ok (k (Vector.ofFn fun j : Fin n => BitVec.ofNat 32 (ds.getD j.val 0)))
    else .error .tooWide
  else .error .wrongOperands

/-- The forms that take no operand (R80, R81). -/
def plain (cs : List Command) (ops : List Nat) : Except AsmError (List Command) :=
  if ops.isEmpty then .ok cs else .error .wrongOperands

/-- The forms of R80 and R81. -/
inductive Form where
  | nop | init | wrw | proc | wrh | rdh | rdw | rdst | clrerr | cmd | ldblk | hashblk | ldh | rddigest | rdsched
deriving DecidableEq, Repr

/-- How each form is spelled (R80, R81). -/
def spelling : List (Form × List Char) :=
  [(.nop, "NOP".toList), (.init, "INIT".toList), (.wrw, "WRW".toList), (.proc, "PROC".toList), (.wrh, "WRH".toList),
   (.rdh, "RDH".toList), (.rdw, "RDW".toList), (.rdst, "RDST".toList), (.clrerr, "CLRERR".toList),
   (.cmd, ".cmd".toList), (.ldblk, "LDBLK".toList), (.hashblk, "HASHBLK".toList), (.ldh, "LDH".toList),
   (.rddigest, "RDDIGEST".toList), (.rdsched, "RDSCHED".toList)]

/-- The form a mnemonic, pseudo-command or directive names. -/
def formOf (mnemonic : List Char) : Option Form := (spelling.find? fun x => x.2 == mnemonic).map (·.1)

/-- One form with its operands. `.cmd` writes a raw pair and is the only way to spell an illegal command (R80). -/
def assembleForm (f : Form) (ops : List Nat) : Except AsmError (List Command) :=
  match f, ops with
  | .nop, _ => plain [encode .nop] ops
  | .init, _ => plain [encode .init] ops
  | .proc, _ => plain [encode .proc] ops
  | .rdst, _ => plain [encode .rdst] ops
  | .clrerr, _ => plain [encode .clrerr] ops
  | .rddigest, _ => plain HostRef.readDigest ops
  | .rdsched, _ => plain HostRef.readSchedule ops
  | .wrw, [j, d] => dataWord d fun w => indexedCommand 16 j fun k => .wrw k w
  | .wrh, [i, d] => dataWord d fun w => indexedCommand 5 i fun k => .wrh k w
  | .rdh, [i] => indexedCommand 5 i .rdh
  | .rdw, [t] => indexedCommand 80 t .rdw
  | .cmd, [c, d] => dataWord d fun w => if c < 2 ^ 16 then .ok [⟨BitVec.ofNat 16 c, w⟩] else .error .tooWide
  | .ldblk, _ => dataWords 16 ops HostRef.loadBlock
  | .hashblk, _ => dataWords 16 ops HostRef.hashBlock
  | .ldh, _ => dataWords 5 ops HostRef.loadDigest
  | .wrw, _ => .error .wrongOperands
  | .wrh, _ => .error .wrongOperands
  | .rdh, _ => .error .wrongOperands
  | .rdw, _ => .error .wrongOperands
  | .cmd, _ => .error .wrongOperands

/-- One line: the mnemonic, then the operands separated by commas (R80). A line with nothing but blanks and a comment
stands for no command. -/
def assembleLine (line : List Char) : Except AsmError (List Command) :=
  let text := trim (stripComment line)
  let mnemonic := text.takeWhile fun c => !isBlank c
  if text.isEmpty then .ok []
  else
    match formOf mnemonic with
    | none => .error .unknownMnemonic
    | some f =>
      match operands (text.drop mnemonic.length) with
      | .ok ops => assembleForm f ops
      | .error e => .error e

end Sys2Proof.Asm
end

