-- ==== Sys2Proof/Machine/Realisations.lean ====
section
/-! DEFINITION. The other realisations the spec allows: the circular-buffer expander (42_schedule_expander.md R137) and
the sequential register update of the source (43_compression_engine.md R156). -/

namespace Sys2Proof.Machine

open Sys2Proof

/-- The circular expander: its sixteen slots, and the schedule store it fills. -/
structure Circular where
  slots : Vector Word 16
  store : Vector Word 80
deriving DecidableEq, Repr

/-- The word of round `t`, with `w[t]` at slot `t mod 16` (R137). -/
def circularWord (x : Circular) (t : Nat) : Word :=
  if t < 16 then wordAt x.slots t
  else rotl32 (wordAt x.slots ((t - 3) % 16) ^^^ wordAt x.slots ((t - 8) % 16) ^^^ wordAt x.slots ((t - 14) % 16) ^^^
    wordAt x.slots (t % 16)) 1

/-- Round `t` of the circular expander (R137). -/
def circularStep (x : Circular) (t : Nat) : Circular where
  slots := if t < 16 then x.slots else setWord x.slots (t % 16) (circularWord x t)
  store := setWord x.store t (circularWord x t)

/-- The circular expander after `n` rounds, from a loaded block and any old schedule store. -/
def circularUpTo (m : Vector Word 16) (old : Vector Word 80) : Nat → Circular
  | 0 => ⟨m, old⟩
  | n + 1 => circularStep (circularUpTo m old n) n

/-- The update of R156 as the source writes it in sequence: `E=D; D=C; C=rotl32(B,30); B=A; A=temp`. -/
def roundSequential (t : Nat) (x : Work) (w : Word) : Work :=
  let temp := roundSum t x w
  let x := { x with e := x.d }
  let x := { x with d := x.c }
  let x := { x with c := rotl32 x.b 30 }
  let x := { x with b := x.a }
  { x with a := temp }

end Sys2Proof.Machine
end

