-- ==== Sys2Proof/Machine/Clock.lean ====
section
/-! DEFINITION. The machine at the level of clock cycles (43_compression_engine.md R166 to R169, 70_reset_and_hazards.md
R240, R242, R244): one step is one rising edge, and a PROC holds the interface while its rounds run. -/

namespace Sys2Proof.Machine

open Sys2Proof

/-- One clock edge of the reference micro-sequence. -/
def clock (s : State) : Host.Outcome State Fault Refusal := edge performCycle s

/-- The clocked machine behind the host's interface. -/
def clockCore : Host.Core :=
  { State := State, Fault := Fault, Refusal := Refusal, step := clock, reset := State.reset }

/-- The engine after `n` round cycles. -/
def roundCycles (s : State) : Nat → State
  | 0 => s
  | n + 1 => roundCycle (roundCycles s n)

end Sys2Proof.Machine
end

