-- ==== Sys2Proof/Machine/Strict.lean ====
section
/-! DEFINITION. The checked machine of 60_exceptions.md R209 and R210: it stops with `fault UndefinedRead` where a legal
command reads a word nothing has written since reset. The chip completes such a read with what its flip-flops hold,
and so does `step` (log entry 7). -/

namespace Sys2Proof.Machine

open Sys2Proof

/-- The first index below `n` whose validity bit is clear. -/
def firstUndefined {m : Nat} (v : Vector Bool m) (n : Nat) : Option Nat :=
  (List.range n).find? fun i => !flagAt v i

/-- The undefined word a legal command reads, if it reads one (R210). For PROC the spec gives the fault no argument (R162,
R210); the model names the undefined digest register of lowest index, and where there is none the undefined block word
of lowest index (DESIGN CHOICE, log entry 17). -/
def undefinedRead (i : Instr) (s : State) : Option UndefinedWord :=
  match i with
  | .nop => none
  | .init => none
  | .wrw _ _ => none
  | .proc =>
    match firstUndefined s.hDef 5 with
    | some k => some (.digest k)
    | none => (firstUndefined s.mDef 16).map .block
  | .wrh _ _ => none
  | .rdh k => if indexOperand k < 5 && !flagAt s.hDef (indexOperand k) then some (.digest (indexOperand k)) else none
  | .rdw t => if indexOperand t < 80 && !s.wDef then some .schedule else none
  | .rdst => none
  | .clrerr => none

/-- A command under R210: `fault UndefinedRead`, or its ordinary meaning. -/
def execStrict (i : Instr) (s : State) : Host.Outcome State Fault Refusal :=
  match undefinedRead i s with
  | some r => .fault (.undefinedRead r)
  | none => exec i s

/-- An accepted command under R210; an illegal command is a defined behaviour, not a fault (R209). -/
def performStrict (c : Command) (s : State) : Host.Outcome State Fault Refusal :=
  match decode c with
  | .legal i => execStrict i s
  | .illegal k => .next (illegalCommand c.cw k s)

/-- One step of the checked machine (R209, R210). -/
def stepStrict (s : State) : Host.Outcome State Fault Refusal := edge performStrict s

/-- The checked machine behind the host's interface. -/
def strictCore : Host.Core :=
  { State := State, Fault := Fault, Refusal := Refusal, step := stepStrict, reset := State.reset }

end Sys2Proof.Machine
end

