-- ==== Sys2Proof/Safety.lean ====
section
/-! DEFINITION. What counts as a good state and a safe run, in the terms the statements use: the form of STATUS
(10_state.md R29 to R32), the interface invariants (R33, R34), and agreement of two states on everything that has
been written (R37, R210). -/

namespace Sys2Proof.Machine

open Sys2Proof

/-- STATUS has the form R29 to R32 give it: reserved bits 0; all 0 while `ERR = 0`; while `ERR = 1`, `ECMD` is an illegal
command word and `ECAUSE` the code of its cause. -/
def statusWellFormed (st : Word) : Bool :=
  statusReserved st == 0 &&
    (if statusErr st then
      match illegalCause (statusCmd st) with
      | some k => statusCause st == causeCode k
      | none => false
    else st == 0)

/-- Between the steps of the transaction level: STATUS well formed and the engine IDLE (R34). -/
def State.Inv (s : State) : Prop := statusWellFormed s.status = true ∧ s.phase = .idle

/-- At the level of clock cycles: STATUS well formed, a BUSY engine has no response pending and a round counter in `0..79`
(R25, R240), and only a BUSY engine is in the fold cycle (R169). -/
def State.ClockInv (s : State) : Prop :=
  statusWellFormed s.status = true ∧ (s.phase = .busy → s.rspFull = false ∧ s.t.toNat ≤ 79) ∧
    (s.folding = true → s.phase = .busy)

/-- Two arrays agree wherever the validity bit is set (R37). -/
def AgreeWhere {n : Nat} (valid : Vector Bool n) (v w : Vector Word n) : Prop :=
  ∀ i, i < n → flagAt valid i = true → wordAt v i = wordAt w i

/-- Two IDLE states that differ at most in words nothing has written: unwritten `H` and `M` words, `W` while `Wdef = 0`,
`RSP_DATA` while no response is pending, and the internal registers `A..E`, `t`, the window and `folding` (R37 to R39). -/
structure AgreeOnWritten (s u : State) : Prop where
  idle : s.phase = .idle ∧ u.phase = .idle
  status : s.status = u.status
  rspFull : s.rspFull = u.rspFull
  rspData : s.rspFull = true → s.rspData = u.rspData
  hDef : s.hDef = u.hDef
  mDef : s.mDef = u.mDef
  wDef : s.wDef = u.wDef
  digest : AgreeWhere s.hDef s.H u.H
  block : AgreeWhere s.mDef s.M u.M
  schedule : s.wDef = true → s.W = u.W
  host : s.host = u.host
  cmds : s.cmds = u.cmds
  taken : s.taken = u.taken
  freeCount : s.freeCount = u.freeCount

/-- A run of `k` steps is safe when the checked machine makes it without `fault UndefinedRead` (R210). -/
def SafeRun (k : Nat) (s : State) : Prop := ∃ u, strictCore.run k s = .next u

end Sys2Proof.Machine
end

