-- ==== Sys2Proof/Certificates/Slice0/Obligations.lean ====
section
/-! DEFINITION. The statements about the model, each with the rule of the spec it formalises. -/

open Sys2Proof Sys2Proof.Machine

/-- The illegal words of one opcode (R201, R202): with a reserved bit set, or with an index not below the limit, an
accepted command is the illegal-command action with the cause of R202, whatever its data word and the state. -/
def Sys2Proof.Machine.IllegalOutside (op limit : Nat) : Prop :=
  ∀ (cw : BitVec 16) (data : Word) (s : State), cw.toNat / 4096 = op →
    (cw.toNat / 128 % 32 ≠ 0 → performCommand ⟨cw, data⟩ s = .next (illegalCommand cw .reservedBits s)) ∧
    (cw.toNat / 128 % 32 = 0 → limit ≤ cw.toNat % 128 →
      performCommand ⟨cw, data⟩ s = .next (illegalCommand cw .badIndex s))

/-! Encoding and decoding (30_encoding.md). -/

/-- R73, R75: decoding the encoding of a well-formed command gives it back, with every operand value. -/
def Obligations.DecodeOfEncode : Prop :=
  ∀ i : Instr, i.wellFormed = true → decode (encode i) = .legal i

/-- R72, R73: a command that decodes is the encoding of what it decodes to: its word has no other reading, and where the
command reads the data word, it is kept whole. -/
def Obligations.EncodeOfDecode : Prop :=
  ∀ (c : Command) (i : Instr), decode c = .legal i →
    i.wellFormed = true ∧ (encode i).cw = c.cw ∧
      ((c.cw.toNat / 4096 = 2 ∨ c.cw.toNat / 4096 = 4) → (encode i).data = c.data)

/-- R201, R202, R75: which command words are illegal, and with which cause. -/
def Obligations.IllegalCauseByFields : Prop :=
  ∀ (cw : BitVec 16) (data : Word),
    let op := cw.toNat / 4096
    let rsv := cw.toNat / 128 % 32
    let idx := cw.toNat % 128
    let limit := if op = 2 then 16 else if op = 4 ∨ op = 5 then 5 else if op = 6 then 80 else 1
    (decode ⟨cw, data⟩ = .illegal .reservedOp ↔ 9 ≤ op) ∧
    (decode ⟨cw, data⟩ = .illegal .reservedBits ↔ op ≤ 8 ∧ rsv ≠ 0) ∧
    (decode ⟨cw, data⟩ = .illegal .badIndex ↔ op ≤ 8 ∧ rsv = 0 ∧ limit ≤ idx) ∧
    ((∃ i, decode ⟨cw, data⟩ = .legal i) ↔ op ≤ 8 ∧ rsv = 0 ∧ idx < limit) ∧
    (∀ i s, decode ⟨cw, data⟩ = .legal i → performCommand ⟨cw, data⟩ s = exec i s) ∧
    (∀ k s, decode ⟨cw, data⟩ = .illegal k → performCommand ⟨cw, data⟩ s = .next (illegalCommand cw k s))

/-- R77: of the 65,536 command words exactly 111 are legal. -/
def Obligations.LegalWordCount : Prop :=
  ((List.range 65536).filter fun n => illegalCause (BitVec.ofNat 16 n) == none).length = 111

/-- R75: row `k` of the match and mask column takes a command word exactly when the word is legal with opcode `k`; so no
word is taken by two rows. -/
def Obligations.OpcodeRowsMatchDecoder : Prop :=
  opcodeRows.length = 9 ∧
  ∀ (cw : BitVec 16) (data : Word) (k : Nat) (r : OpcodeRow), opcodeRows[k]? = some r →
    (r.takes cw = true ↔ (cw.toNat / 4096 = k ∧ ∃ i, decode ⟨cw, data⟩ = .legal i))

/-- R72: two commands that differ only in the data word have the same effect, for every opcode but WRW and WRH and for
every illegal command word. -/
def Obligations.DataWordIgnored : Prop :=
  ∀ (cw : BitVec 16) (d d' : Word) (s : State),
    ((cw.toNat / 4096 ≠ 2 ∧ cw.toNat / 4096 ≠ 4) ∨ ∃ k, decode ⟨cw, d⟩ = .illegal k) →
    performCommand ⟨cw, d⟩ s = performCommand ⟨cw, d'⟩ s

/-- Words written out from R71, R73 and R75, one or more for each command, decode to the command they stand for. -/
def Obligations.WrittenWordsDecode : Prop :=
  decode ⟨0b0000_00000_0000000, 7⟩ = .legal .nop ∧
  decode ⟨0b0001_00000_0000000, 7⟩ = .legal .init ∧
  decode ⟨0b0010_00000_0000011, 7⟩ = .legal (.wrw 3 7) ∧
  decode ⟨0b0011_00000_0000000, 7⟩ = .legal .proc ∧
  decode ⟨0b0100_00000_0000100, 7⟩ = .legal (.wrh 4 7) ∧
  decode ⟨0b0101_00000_0000010, 7⟩ = .legal (.rdh 2) ∧
  decode ⟨0b0110_00000_1001111, 7⟩ = .legal (.rdw 79) ∧
  decode ⟨0b0111_00000_0000000, 7⟩ = .legal .rdst ∧
  decode ⟨0b1000_00000_0000000, 7⟩ = .legal .clrerr

/-- R242, R12, R202, R203: a command the host offers to a ready interface is accepted by the step, by the step of the
checked machine and by the clock edge alike, and leaves the port. What then happens is what that machine performs for
it: the instruction it decodes to (at the level of clock cycles, for PROC, the accept cycle), or, for an illegal one,
the illegal-command action. The lists `host` and `cmds` are the model's form of the ports (log entry 8). -/
def Obligations.StepRunsDecodedCommand : Prop :=
  ∀ (s : State) (p : HostDrive) (rest : List HostDrive) (c : Command) (crest : List Command),
    s.host = p :: rest → p.rstN = true → p.cmdValid = true → s.cmds = c :: crest → s.phase = .idle →
    s.rspFull = false →
    step s = performCommand c { s with host := rest, cmds := crest } ∧
    stepStrict s = performStrict c { s with host := rest, cmds := crest } ∧
    clock s = performCycle c { s with host := rest, cmds := crest } ∧
    (∀ i, decode c = .legal i →
      step s = exec i { s with host := rest, cmds := crest } ∧
      stepStrict s = execStrict i { s with host := rest, cmds := crest } ∧
      clock s = if i = .proc then .next (acceptProc { s with host := rest, cmds := crest })
        else exec i { s with host := rest, cmds := crest }) ∧
    (∀ k, decode c = .illegal k →
      step s = .next (illegalCommand c.cw k { s with host := rest, cmds := crest }) ∧
      stepStrict s = .next (illegalCommand c.cw k { s with host := rest, cmds := crest }) ∧
      clock s = .next (illegalCommand c.cw k { s with host := rest, cmds := crest }))

/-! Illegal commands and STATUS (60_exceptions.md, 10_state.md). -/

/-- R203, R204: an accepted illegal command records its word and cause in STATUS if `ERR` was 0, leaves STATUS alone if
it was 1, responds 0 for a read opcode and nothing else, and changes no other state. -/
def Obligations.IllegalCommandAction : Prop :=
  ∀ (c : Command) (k : Cause) (s : State), decode c = .illegal k →
    ∃ t, performCommand c s = .next t ∧
      (s.status.getLsbD 0 = false →
        t.status = c.cw ++ 0#12 ++ (match k with | .reservedOp => 1#3 | .reservedBits => 2#3 | .badIndex => 3#3) ++ 1#1) ∧
      (s.status.getLsbD 0 = true → t.status = s.status) ∧
      ((c.cw.toNat / 4096 = 5 ∨ c.cw.toNat / 4096 = 6 ∨ c.cw.toNat / 4096 = 7) → t.rspFull = true ∧ t.rspData = 0) ∧
      (¬(c.cw.toNat / 4096 = 5 ∨ c.cw.toNat / 4096 = 6 ∨ c.cw.toNat / 4096 = 7) →
        t.rspFull = s.rspFull ∧ t.rspData = s.rspData) ∧
      t = { s with status := t.status, rspFull := t.rspFull, rspData := t.rspData }

/-- R29: a step changes STATUS in two ways only: an accepted illegal command, while `ERR` is 0, sets `ERR` and records its
word and cause; or all of STATUS becomes 0, by a reset edge or by an accepted CLRERR. So while `ERR = 1` a further
illegal command changes no field. -/
def Obligations.StatusWriters : Prop :=
  ∀ s s' : State, step s = .next s' → s'.status ≠ s.status →
    ∃ p rest, s.host = p :: rest ∧
      ((∃ c crest k, p.cmdValid = true ∧ s.cmds = c :: crest ∧ cmdReady p.rstN s = true ∧ decode c = .illegal k ∧
          s.status.getLsbD 0 = false ∧
          s'.status = c.cw ++ 0#12 ++
            (match k with | .reservedOp => 1#3 | .reservedBits => 2#3 | .badIndex => 3#3) ++ 1#1) ∨
       (s'.status = 0 ∧
          (p.rstN = false ∨
            (p.cmdValid = true ∧ (∃ d crest, s.cmds = ⟨0x8000, d⟩ :: crest) ∧ cmdReady p.rstN s = true))))

/-- R29, R30, R31, R32, R34: every step keeps the form of STATUS (reserved bits 0, all 0 while `ERR = 0`, else an illegal
word with the code of its own cause) and leaves the engine IDLE. -/
def Obligations.StepKeepsInvariant : Prop :=
  ∀ s s' : State, s.Inv → step s = .next s' → s'.Inv

/-- Both invariants, of the step and of the clock edge, hold right after reset (R230). -/
def Obligations.ResetMeetsInvariant : Prop := State.reset.Inv ∧ State.reset.ClockInv

/-! The commands. -/

/-- R181: NOP, with any data word, completes and changes nothing. -/
def Obligations.NopChangesNothing : Prop :=
  IllegalOutside 0 1 ∧
  encode .nop = ⟨0x0000, 0⟩ ∧ (∀ d, decode ⟨0x0000, d⟩ = .legal .nop) ∧ ∀ s : State, exec .nop s = .next s

/-- R182, R27: INIT sets the five digest registers to the initial values and their validity bits, and nothing else. -/
def Obligations.InitLoadsInitialValues : Prop :=
  IllegalOutside 1 1 ∧
  (encode .init).cw = 0x1000 ∧ (∀ d, decode ⟨0x1000, d⟩ = .legal .init) ∧
  ∀ s : State, ∃ t, exec .init s = .next t ∧
    t.H[0] = 0x67452301 ∧ t.H[1] = 0xEFCDAB89 ∧ t.H[2] = 0x98BADCFE ∧ t.H[3] = 0x10325476 ∧ t.H[4] = 0xC3D2E1F0 ∧
    (∀ i : Fin 5, t.hDef[i.val] = true) ∧ t = { s with H := t.H, hDef := t.hDef }

/-- R120: WRW `j` in range writes `M[j]` and its validity bit and nothing else; out of range it is illegal, cause
BAD_INDEX, and writes no word. -/
def Obligations.WrwWritesOneBlockWord : Prop :=
  IllegalOutside 2 16 ∧
  ∀ (j : BitVec 7) (d : Word) (s : State),
    encode (.wrw j d) = ⟨0x2000 + j.setWidth 16, d⟩ ∧
    (j.toNat ≤ 15 → decode ⟨0x2000 + j.setWidth 16, d⟩ = .legal (.wrw j d) ∧ ∃ t, exec (.wrw j d) s = .next t ∧
      (∀ k : Fin 16, t.M[k.val] = if k.val = j.toNat then d else s.M[k.val]) ∧
      (∀ k : Fin 16, t.mDef[k.val] = if k.val = j.toNat then true else s.mDef[k.val]) ∧
      t = { s with M := t.M, mDef := t.mDef }) ∧
    (16 ≤ j.toNat → exec (.wrw j d) s = .next (illegalCommand (0x2000 + j.setWidth 16) .badIndex s))

/-- R183: WRH `i` in range writes `H[i]` and its validity bit and nothing else; out of range it is illegal, cause
BAD_INDEX, and writes no register. -/
def Obligations.WrhWritesOneDigestRegister : Prop :=
  IllegalOutside 4 5 ∧
  ∀ (i : BitVec 7) (d : Word) (s : State),
    encode (.wrh i d) = ⟨0x4000 + i.setWidth 16, d⟩ ∧
    (i.toNat ≤ 4 → decode ⟨0x4000 + i.setWidth 16, d⟩ = .legal (.wrh i d) ∧ ∃ t, exec (.wrh i d) s = .next t ∧
      (∀ k : Fin 5, t.H[k.val] = if k.val = i.toNat then d else s.H[k.val]) ∧
      (∀ k : Fin 5, t.hDef[k.val] = if k.val = i.toNat then true else s.hDef[k.val]) ∧
      t = { s with H := t.H, hDef := t.hDef }) ∧
    (5 ≤ i.toNat → exec (.wrh i d) s = .next (illegalCommand (0x4000 + i.setWidth 16) .badIndex s))

/-- R184: RDH `i` in range responds `H[i]` and changes nothing but the response slot, and the checked machine faults where
`Hdef[i]` is clear (R210); out of range it is illegal, cause BAD_INDEX, and responds 0. -/
def Obligations.RdhRespondsDigestRegister : Prop :=
  IllegalOutside 5 5 ∧
  ∀ (i : BitVec 7) (s : State),
    (encode (.rdh i)).cw = 0x5000 + i.setWidth 16 ∧
    (∀ h : i.toNat < 5, (∀ d, decode ⟨0x5000 + i.setWidth 16, d⟩ = .legal (.rdh i)) ∧
      exec (.rdh i) s = .next { s with rspFull := true, rspData := s.H[i.toNat] } ∧
      execStrict (.rdh i) s =
        if s.hDef[i.toNat] then .next { s with rspFull := true, rspData := s.H[i.toNat] }
        else .fault (.undefinedRead (.digest i.toNat))) ∧
    (5 ≤ i.toNat → exec (.rdh i) s = .next (illegalCommand (0x5000 + i.setWidth 16) .badIndex s) ∧
      (illegalCommand (0x5000 + i.setWidth 16) .badIndex s).rspFull = true ∧
      (illegalCommand (0x5000 + i.setWidth 16) .badIndex s).rspData = 0)

/-- R139: RDW `t` in range responds `W[t]` and changes nothing but the response slot, and the checked machine faults while
`Wdef` is clear (R210); out of range it is illegal, cause BAD_INDEX, and responds 0. -/
def Obligations.RdwRespondsScheduleWord : Prop :=
  IllegalOutside 6 80 ∧
  ∀ (t : BitVec 7) (s : State),
    (encode (.rdw t)).cw = 0x6000 + t.setWidth 16 ∧
    (∀ h : t.toNat < 80, (∀ d, decode ⟨0x6000 + t.setWidth 16, d⟩ = .legal (.rdw t)) ∧
      exec (.rdw t) s = .next { s with rspFull := true, rspData := s.W[t.toNat] } ∧
      execStrict (.rdw t) s =
        if s.wDef then .next { s with rspFull := true, rspData := s.W[t.toNat] }
        else .fault (.undefinedRead .schedule)) ∧
    (80 ≤ t.toNat → exec (.rdw t) s = .next (illegalCommand (0x6000 + t.setWidth 16) .badIndex s) ∧
      (illegalCommand (0x6000 + t.setWidth 16) .badIndex s).rspFull = true ∧
      (illegalCommand (0x6000 + t.setWidth 16) .badIndex s).rspData = 0)

/-- R186: RDST responds STATUS and changes nothing but the response slot. -/
def Obligations.RdstRespondsStatus : Prop :=
  IllegalOutside 7 1 ∧
  (encode .rdst).cw = 0x7000 ∧ (∀ d, decode ⟨0x7000, d⟩ = .legal .rdst) ∧
  ∀ s : State, exec .rdst s = .next { s with rspFull := true, rspData := s.status }

/-- R187: CLRERR sets STATUS to 0 and changes nothing else. -/
def Obligations.ClrerrClearsStatus : Prop :=
  IllegalOutside 8 1 ∧
  (encode .clrerr).cw = 0x8000 ∧ (∀ d, decode ⟨0x8000, d⟩ = .legal .clrerr) ∧
  ∀ s : State, exec .clrerr s = .next { s with status := 0 }

/-- R162, with R131, R157 and R161 written out: `W` is the expansion of `M`, `A..E` are the working registers after the
eighty rounds of a chain that starts at `H`, each `H[i]` accumulates its working register, `Wdef` is set, and nothing
else but the internal window and round counter changes. The checked machine faults while a word of `H` or `M` is
undefined (R210). Two clauses are the model's choice and no rule's: that the window ends with the last sixteen schedule
words (log entry 4: another realisation may differ, R138), and the count of free values (log entry 2); `t` is open. -/
def Obligations.ProcExpandsRoundsAndFolds : Prop :=
  IllegalOutside 3 1 ∧
  (encode .proc).cw = 0x3000 ∧ (∀ d, decode ⟨0x3000, d⟩ = .legal .proc) ∧
  ∀ s : State, ∃ t, exec .proc s = .next t ∧
    (∀ k : Fin 16, t.W[k.val] = s.M[k.val]) ∧
    (∀ k : Fin 64, t.W[k.val + 16] =
      rotl32 (t.W[k.val + 13] ^^^ t.W[k.val + 8] ^^^ t.W[k.val + 2] ^^^ t.W[k.val]) 1) ∧
    (∃ S : Nat → Work, S 0 = ⟨s.H[0], s.H[1], s.H[2], s.H[3], s.H[4]⟩ ∧
      (∀ r : Fin 80, S (r.val + 1) =
        ⟨rotl32 (S r.val).a 5 + roundFunction r.val (S r.val).b (S r.val).c (S r.val).d + (S r.val).e + t.W[r.val] +
          roundConstant r.val, (S r.val).a, rotl32 (S r.val).b 30, (S r.val).c, (S r.val).d⟩) ∧ t.work = S 80) ∧
    t.H[0] = s.H[0] + t.work.a ∧ t.H[1] = s.H[1] + t.work.b ∧ t.H[2] = s.H[2] + t.work.c ∧
    t.H[3] = s.H[3] + t.work.d ∧ t.H[4] = s.H[4] + t.work.e ∧
    t.wDef = true ∧ (∀ k : Fin 16, t.win[k.val] = t.W[k.val + 64]) ∧
    t = { s with W := t.W, work := t.work, H := t.H, wDef := t.wDef, win := t.win, t := t.t, folding := false,
                 freeCount := s.freeCount + 1 } ∧
    ((∀ i : Fin 5, s.hDef[i.val] = true) → (∀ j : Fin 16, s.mDef[j.val] = true) → execStrict .proc s = .next t) ∧
    (((∃ i : Fin 5, s.hDef[i.val] = false) ∨ ∃ j : Fin 16, s.mDef[j.val] = false) →
      ∃ r, execStrict .proc s = .fault (.undefinedRead r))

/-- R182, R183 (derived there): WRH of all five registers with the initial values leaves the state that INIT leaves. -/
def Obligations.WrhOfInitialValuesIsInit : Prop :=
  ∀ s s0 s1 s2 s3 s4 : State,
    exec (.wrh 0 0x67452301) s = .next s0 → exec (.wrh 1 0xEFCDAB89) s0 = .next s1 →
    exec (.wrh 2 0x98BADCFE) s1 = .next s2 → exec (.wrh 3 0x10325476) s2 = .next s3 →
    exec (.wrh 4 0xC3D2E1F0) s3 = .next s4 → exec .init s = .next s4

/-- R20, R22, R23, R24, R29: only WRW writes `M`; only PROC writes `W`, `A..E` and the window; only INIT, WRH and PROC
write `H`; STATUS is written only by CLRERR and by forms with an index out of range; no command moves the engine phase
or the host's side of the ports. -/
def Obligations.WritersOfEachRegister : Prop :=
  ∀ (i : Instr) (s t : State), exec i s = .next t →
    (t.M ≠ s.M → ∃ j d, i = .wrw j d) ∧
    (t.W ≠ s.W ∨ t.work ≠ s.work ∨ t.win ≠ s.win ∨ t.t ≠ s.t ∨ t.folding ≠ s.folding → i = .proc) ∧
    (t.H ≠ s.H → i = .init ∨ i = .proc ∨ ∃ k d, i = .wrh k d) ∧
    (t.status ≠ s.status → i = .clrerr ∨ i.wellFormed = false) ∧
    t.phase = s.phase ∧ t.host = s.host ∧ t.cmds = s.cmds ∧ t.taken = s.taken

/-- R60: a read changes no state but the response slot, and repeated it gives the same word; WRW, WRH and INIT repeated
with the same data leave the same state. -/
def Obligations.ReadsAndWritesIdempotent : Prop :=
  (∀ (i : Instr) (s t : State), i.wellFormed = true → ((∃ k, i = .rdh k) ∨ (∃ k, i = .rdw k) ∨ i = .rdst) →
    exec i s = .next t → t = { s with rspFull := true, rspData := t.rspData } ∧ exec i t = .next t) ∧
  (∀ (i : Instr) (s t : State), i.wellFormed = true → ((∃ k d, i = .wrw k d) ∨ (∃ k d, i = .wrh k d) ∨ i = .init) →
    exec i s = .next t → exec i t = .next t)

/-! Word operations, expansion and compression (00_scope.md, 42_schedule_expander.md, 43_compression_engine.md). -/

/-- R15: the rotation by its formula on numbers, and bit by bit: bit `i` of `rotl32(x, n)` is bit `(i - n) mod 32` of `x`. -/
def Obligations.RotationMovesBits : Prop :=
  ∀ (x : Word) (n : Nat), 1 ≤ n → n ≤ 31 →
    (rotl32 x n).toNat = (x.toNat <<< n ||| x.toNat >>> (32 - n)) % 2 ^ 32 ∧
    ∀ i, i < 32 → (rotl32 x n).getLsbD i = x.getLsbD ((i + 32 - n) % 32)

/-- R150, R151, R152: the formulas and the forms the rules call equal, and bit by bit: choose takes `c` where `b` is 1 and
`d` where it is 0; parity is the XOR of the three bits; majority is 1 where at least two of the three are 1. -/
def Obligations.RoundFunctionsBitwise : Prop :=
  ∀ (b c d : Word),
    choose b c d = (b &&& c) ||| (~~~b &&& d) ∧ choose b c d = (b &&& c) ^^^ (~~~b &&& d) ∧
    choose b c d = (b &&& c) + (~~~b &&& d) ∧
    parity b c d = b ^^^ c ^^^ d ∧
    majority b c d = (b &&& c) ||| (b &&& d) ||| (c &&& d) ∧
    majority b c d = (b &&& c) ^^^ (b &&& d) ^^^ (c &&& d) ∧ majority b c d = (b &&& c) ||| (d &&& (b ||| c)) ∧
    ∀ i, i < 32 →
      (choose b c d).getLsbD i = (if b.getLsbD i then c.getLsbD i else d.getLsbD i) ∧
      (parity b c d).getLsbD i = ((b.getLsbD i ^^ c.getLsbD i) ^^ d.getLsbD i) ∧
      (majority b c d).getLsbD i = decide (2 ≤ (b.getLsbD i).toNat + (c.getLsbD i).toNat + (d.getLsbD i).toNat)

/-- R153, R154, R26: the round function and the round constant by the four ranges of rounds. -/
def Obligations.RoundSelectionByRange : Prop :=
  ∀ t : Nat, t < 80 → ∀ b c d : Word,
    (t ≤ 19 → roundFunction t b c d = choose b c d ∧ roundConstant t = 0x5A827999) ∧
    (20 ≤ t → t ≤ 39 → roundFunction t b c d = parity b c d ∧ roundConstant t = 0x6ED9EBA1) ∧
    (40 ≤ t → t ≤ 59 → roundFunction t b c d = majority b c d ∧ roundConstant t = 0x8F1BBCDC) ∧
    (60 ≤ t → roundFunction t b c d = parity b c d ∧ roundConstant t = 0xCA62C1D6)

/-- R155, R156, R157: one round, and its agreement with the source's sequence of five assignments. -/
def Obligations.RoundIsSimultaneousUpdate : Prop :=
  ∀ (t : Nat) (a b c d e w : Word), t < 80 →
    roundStep t ⟨a, b, c, d, e⟩ w =
      ⟨rotl32 a 5 + roundFunction t b c d + e + w + roundConstant t, a, rotl32 b 30, c, d⟩ ∧
    roundSequential t ⟨a, b, c, d, e⟩ w = roundStep t ⟨a, b, c, d, e⟩ w

/-- R131: the expansion function by its recurrence. -/
def Obligations.ExpansionRecurrence : Prop :=
  ∀ m : Vector Word 16,
    (∀ t : Fin 16, (expand m)[t.val] = m[t.val]) ∧
    (∀ t : Nat, 16 ≤ t → ∀ h : t < 80, (expand m)[t] =
      rotl32 ((expand m)[t - 3] ^^^ (expand m)[t - 8] ^^^ (expand m)[t - 14] ^^^ (expand m)[t - 16]) 1)

/-- R133: the expansion is linear over XOR, so the zero block gives the zero schedule. -/
def Obligations.ExpansionIsLinear : Prop :=
  (∀ m m' x : Vector Word 16, (∀ j : Fin 16, x[j.val] = m[j.val] ^^^ m'[j.val]) →
    ∀ t : Fin 80, (expand x)[t.val] = (expand m)[t.val] ^^^ (expand m')[t.val]) ∧
  (∀ t : Fin 80, (expand (Vector.replicate 16 0#32))[t.val] = 0)

/-- R137, R138: the circular-buffer expander fills the schedule store with the same words, whatever the store held. -/
def Obligations.CircularExpanderAgrees : Prop :=
  ∀ (m : Vector Word 16) (old : Vector Word 80), (circularUpTo m old 80).store = expand m

/-- R38 (derived there): after PROC, `A..E` equal the digest after minus the digest before, word by word. -/
def Obligations.WorkIsDigestDifference : Prop :=
  ∀ s t : State, exec .proc s = .next t →
    t.work = ⟨t.H[0] - s.H[0], t.H[1] - s.H[1], t.H[2] - s.H[2], t.H[3] - s.H[3], t.H[4] - s.H[4]⟩

/-- R163: PROC is order-sensitive: for some start state two blocks in one order and in the other leave different digests,
and some block gives different digests from two different states. -/
def Obligations.BlockOrderMatters : Prop :=
  ∃ (h h' : Vector Word 5) (m m' : Vector Word 16),
    compress (compress h m) m' ≠ compress (compress h m') m ∧ compress h m ≠ compress h' m

/-! The micro-sequence (43_compression_engine.md R166 to R169). -/

/-- R168 with R137, R166 and R167: after `n` round cycles of an accepted PROC the schedule store holds the first `n` words of
the expansion, the working registers are those after `n` rounds, and nothing else has changed, `H` included. The clauses
on the window and the counter are the model's reading of the reference realisation: the window holds the words the next
rounds need (log entry 4); `t` is `n` in the rounds and stays in `0..79` after the last one (R25), where the model's own
field `folding` marks that the fold cycle is next (log entry 5). -/
def Obligations.StateAfterRoundCycles : Prop :=
  ∀ (s : State) (n : Nat), n ≤ 80 →
    (∀ k : Fin 80, (roundCycles (acceptProc s) n).W[k.val] = if k.val < n then (expand s.M)[k.val] else s.W[k.val]) ∧
    (roundCycles (acceptProc s) n).work = roundsUpTo (expand s.M) (Work.ofDigest s.H) n ∧
    (n < 80 → (roundCycles (acceptProc s) n).t.toNat = n) ∧
    (n = 80 → (roundCycles (acceptProc s) n).t.toNat ≤ 79) ∧
    (roundCycles (acceptProc s) n).folding = decide (n = 80) ∧
    (∀ k : Fin 16, wordAt (roundCycles (acceptProc s) n).win k.val =
      if n ≤ 16 then wordAt s.M k.val else wordAt (expand s.M) (n - 16 + k.val)) ∧
    roundCycles (acceptProc s) n =
      { s with W := (roundCycles (acceptProc s) n).W, work := (roundCycles (acceptProc s) n).work,
               t := (roundCycles (acceptProc s) n).t, win := (roundCycles (acceptProc s) n).win, phase := .busy,
               folding := decide (n = 80) }

/-- R12, R138, R162, R166 to R169: 82 clock edges (the accept edge and 81 BUSY cycles, the reference timing of log entry 9)
of the micro-sequence leave exactly the state that the one atomic step of PROC leaves, but for what the host has driven
at the edges meanwhile: at each of them anything with `rst_n = 1`. -/
def Obligations.MicroSequenceRefinesProc : Prop :=
  ∀ (s : State) (p : HostDrive) (rest : List HostDrive) (c : Command) (crest : List Command),
    s.host = p :: rest → p.rstN = true → p.cmdValid = true → s.cmds = c :: crest → decode c = .legal .proc →
    s.phase = .idle → s.rspFull = false → (∀ q ∈ rest.take Config.referenceProcCycles, q.rstN = true) →
    ∃ t, step s = .next t ∧ Host.Core.run clockCore (Config.referenceProcCycles + 1) s =
      .next { t with host := rest.drop Config.referenceProcCycles }

/-- R168, R169, R240: after the accept edge of PROC the engine is BUSY for the 81 cycles of the reference timing (log entry
9); all that time `cmd_ready` is 0, the commands the host has still to send wait on the port in their order, and `H`, `M`
and STATUS keep their values and `t` is in `0..79` (R25), whatever the host drives with `rst_n = 1`. -/
def Obligations.ProcHoldsInterfaceBusy : Prop :=
  ∀ (s : State) (p : HostDrive) (rest : List HostDrive) (c : Command) (crest : List Command) (k : Nat),
    s.host = p :: rest → p.rstN = true → p.cmdValid = true → s.cmds = c :: crest → decode c = .legal .proc →
    s.phase = .idle → s.rspFull = false → (∀ q ∈ rest.take (k - 1), q.rstN = true) →
    1 ≤ k → k ≤ Config.referenceProcCycles →
    ∃ u, Host.Core.run clockCore k s = .next u ∧ u.phase = .busy ∧ (∀ r, cmdReady r u = false) ∧ u.H = s.H ∧
      u.M = s.M ∧ u.status = s.status ∧ u.cmds = crest ∧ u.t.toNat ≤ 79

/-- R34, R25, R240: every clock edge keeps STATUS well formed, and a BUSY engine has no response pending and a round
counter in `0..79`, also in the fold cycle, which only a BUSY engine is in (log entry 5). -/
def Obligations.ClockKeepsInvariant : Prop :=
  ∀ s s' : State, s.ClockInv → clock s = .next s' → s'.ClockInv

/-! The interface (70_reset_and_hazards.md). -/

/-- R240, R241, R242: a command offered while the engine is BUSY or a response is pending is not accepted, at the step and
at the clock edge alike; it waits on the port, whatever the host drives on `rsp_ready` meanwhile, and STATUS, `M` and the
validity of `H` and `M` keep their values. -/
def Obligations.OfferedCommandWaits : Prop :=
  ∀ (s : State) (p : HostDrive) (rest : List HostDrive), s.host = p :: rest → p.rstN = true → p.cmdValid = true →
    s.cmds ≠ [] → (s.phase = .busy ∨ s.rspFull = true) →
    ∃ t, step s = .next t ∧ clock s = .next t ∧ t.cmds = s.cmds ∧ t.host = rest ∧ t.status = s.status ∧ t.M = s.M ∧
      t.hDef = s.hDef ∧ t.mDef = s.mDef ∧
      (s.phase = .idle →
        t = { s with host := rest, rspFull := t.rspFull, rspData := t.rspData, taken := t.taken })

/-- R242, R33, R241: a pending response is taken exactly at an edge with `rsp_ready = 1`; that sets `RSP_FULL` to 0 and
delivers the word; until then `RSP_FULL` and `RSP_DATA` stay as they are. -/
def Obligations.ResponseTakenWhenReady : Prop :=
  ∀ (s : State) (p : HostDrive) (rest : List HostDrive),
    s.host = p :: rest → p.rstN = true → s.rspFull = true →
    ∃ t, step s = .next t ∧
      (p.rspReady = true → t.rspFull = false ∧ t.taken = s.taken ++ [s.rspData]) ∧
      (p.rspReady = false → t.rspFull = true ∧ t.rspData = s.rspData ∧ t.taken = s.taken)

/-- R33, R240, R241, R242: with a response pending, the host may keep its next command on the port and hold `rsp_ready` at
0 for as long as it likes; once it raises `rsp_ready` the response is delivered, and at the next edge the command that
waited is accepted and performed. (That `RSP_DATA` still holds its word then is log entry 10.) -/
def Obligations.WaitingCommandFollowsResponse : Prop :=
  ∀ (s : State) (ps : List HostDrive) (q a : HostDrive) (rest : List HostDrive) (c : Command) (crest : List Command),
    s.phase = .idle → s.rspFull = true → s.host = ps ++ q :: a :: rest → s.cmds = c :: crest →
    (∀ d ∈ ps, d.rstN = true ∧ d.rspReady = false) → q.rstN = true → q.rspReady = true →
    a.rstN = true → a.cmdValid = true →
    Host.Core.run core (ps.length + 2) s =
      performCommand c { s with host := rest, cmds := crest, rspFull := false, taken := s.taken ++ [s.rspData] }

/-- R230, R231, R205: an edge with `rst_n = 0`, whatever the core is doing, sets STATUS and RSP_FULL to 0 and the phase to
IDLE and clears the validity shadow; an offered command is not accepted and stays on the port, and a pending response
is lost unless the host takes it at this very edge (R242 as the model reads it, log entry 16). -/
def Obligations.ResetEdgeClears : Prop :=
  ∀ (s : State) (p : HostDrive) (rest : List HostDrive), s.host = p :: rest → p.rstN = false →
    ∃ t, step s = .next t ∧ clock s = .next t ∧ t.status = 0 ∧ t.rspFull = false ∧ t.phase = .idle ∧
      (∀ i : Fin 5, t.hDef[i.val] = false) ∧ (∀ j : Fin 16, t.mDef[j.val] = false) ∧ t.wDef = false ∧
      t.host = rest ∧ t.cmds = s.cmds ∧
      (s.rspFull = true → p.rspReady = true → t.taken = s.taken ++ [s.rspData]) ∧
      ((s.rspFull = false ∨ p.rspReady = false) → t.taken = s.taken)

/-- R217, R242: while no command is offered an IDLE core holds all its state. With nothing driven it does so for any number
of steps; at any edge with `rst_n = 1`, at the step and at the clock edge alike, only what the host drives is used up,
and where a response is pending and the host takes it, `RSP_FULL` and the list of taken responses change with it (that
`RSP_DATA` stays is log entry 10 and is not stated). -/
def Obligations.IdleCoreHoldsState : Prop :=
  ∀ s : State, s.phase = .idle →
    (s.host = [] → ∀ n, Host.Core.run core n s = .next s) ∧
    (∀ p rest, s.host = p :: rest → p.rstN = true → (p.cmdValid = false ∨ s.cmds = []) →
      clock s = step s ∧
      ((s.rspFull = false ∨ p.rspReady = false) → step s = .next { s with host := rest }) ∧
      (s.rspFull = true → p.rspReady = true → ∃ t, step s = .next t ∧
        t = { s with host := rest, rspFull := false, rspData := t.rspData, taken := s.taken ++ [s.rspData] }))

/-- R39, R230, R232: what the spec states of the machine right after reset (the zeros of log entry 1 are not part of it):
STATUS 0, no response, IDLE, nothing valid, and no command yet. -/
def Obligations.ResetState : Prop :=
  State.reset.status = 0 ∧ State.reset.rspFull = false ∧ State.reset.phase = .idle ∧
    (∀ i : Fin 5, State.reset.hDef[i.val] = false) ∧ (∀ j : Fin 16, State.reset.mDef[j.val] = false) ∧
    State.reset.wDef = false ∧ State.reset.host = [] ∧ State.reset.cmds = []

/-- R200, R77: no command and no state makes a step fault or refuse: every step answers a next state. -/
def Obligations.StepAlwaysAnswers : Prop := ∀ s : State, ∃ t, step s = .next t

/-! The checked machine (60_exceptions.md R209, R210). -/

/-- R210: the checked machine faults on a legal command exactly where it reads a word whose validity bit is clear, and
otherwise does what the machine does; a fault ends its run; the machine itself, like the chip, completes the command. -/
def Obligations.UndefinedReadFaults : Prop :=
  ∀ (i : Instr) (s : State), i.wellFormed = true →
    ((∃ r, execStrict i s = .fault (.undefinedRead r)) ↔
      ((∃ k : Fin 5, i = .rdh (BitVec.ofNat 7 k.val) ∧ s.hDef[k.val] = false) ∨
       ((∃ t, i = .rdw t) ∧ s.wDef = false) ∨
       (i = .proc ∧ ((∃ k : Fin 5, s.hDef[k.val] = false) ∨ ∃ j : Fin 16, s.mDef[j.val] = false)))) ∧
    ((∀ r, execStrict i s ≠ .fault (.undefinedRead r)) → execStrict i s = exec i s) ∧
    (∃ t, exec i s = .next t) ∧
    ∀ r n, stepStrict s = .fault r → Host.Core.run strictCore (n + 1) s = .fault r

/-- R37, R209, R210 (the purpose they give the shadow): words that nothing has written cannot influence a step of the
checked machine. Two states that agree on everything written both fault, or both go on and agree again. -/
def Obligations.UnwrittenWordsDoNotMatter : Prop :=
  ∀ s u : State, AgreeOnWritten s u →
    (∀ s', stepStrict s = .next s' → ∃ u', stepStrict u = .next u' ∧ AgreeOnWritten s' u') ∧
    (∀ f, stepStrict s = .fault f → stepStrict u = .fault f)

/-! The host's sequences (30_encoding.md R81, 40_host_reference.md). -/

/-- R81, R4: `HASHBLK` from any IDLE state without a pending response, whatever has been written, takes 17 steps to the
state with the block in `M`, its schedule in `W`, and the digest state compressed with it.
The way the host drives the sequence is the model's choice (log entry 13). -/
def Obligations.HashBlockFoldsOneBlock : Prop :=
  ∀ (s : State) (m : Vector Word 16) (rest : List HostDrive) (crest : List Command), s.phase = .idle →
    s.rspFull = false → s.host = HostRef.driveAll (HostRef.hashBlock m) ++ rest →
    s.cmds = HostRef.hashBlock m ++ crest →
    ∃ t, Host.Core.run core 17 s = .next t ∧ t.M = m ∧ t.W = expand m ∧ t.H = compress s.H m ∧
      t.mDef = Vector.replicate 16 true ∧ t.host = rest ∧ t.cmds = crest ∧
      t = { s with M := t.M, W := t.W, H := t.H, mDef := t.mDef, wDef := true, host := t.host, cmds := t.cmds,
                   work := t.work, win := t.win, t := t.t, folding := false, freeCount := s.freeCount + 1 }

/-- From R185, R61: `RDDIGEST` delivers `H0, H1, H2, H3, H4` in that order and changes nothing else but the response word and
the host's two lists. The way the host drives the sequence, and so the ten steps, is the model's choice (log entry 13),
one of those R109 allows. -/
def Obligations.ReadDigestDeliversInOrder : Prop :=
  ∀ (s : State) (rest : List HostDrive) (crest : List Command), s.phase = .idle → s.rspFull = false →
    s.host = HostRef.driveAll HostRef.readDigest ++ rest → s.cmds = HostRef.readDigest ++ crest →
    ∃ t, Host.Core.run core 10 s = .next t ∧ t.taken = s.taken ++ [s.H[0], s.H[1], s.H[2], s.H[3], s.H[4]] ∧
      t = { s with host := rest, cmds := crest, rspData := t.rspData, taken := t.taken }

/-- R4, R107, R233: the host's sequence for any list of blocks (INIT; for each block its sixteen WRW and PROC; RDDIGEST)
delivers the five words of the step of one block folded over the blocks in order from the initial state. It does so on
the checked machine as well, so no unwritten word is read.
The way the host drives the sequence is the model's choice (log entry 13). -/
def Obligations.HashSequenceDeliversDigest : Prop :=
  ∀ (s : State) (bs : List (Vector Word 16)) (rest : List HostDrive) (crest : List Command), s.phase = .idle →
    s.rspFull = false → s.host = HostRef.driveAll (HostRef.hashCommands bs) ++ rest →
    s.cmds = HostRef.hashCommands bs ++ crest →
    ∃ t, Host.Core.run core (17 * bs.length + 11) s = .next t ∧
      Host.Core.run strictCore (17 * bs.length + 11) s = .next t ∧
      t.taken = s.taken ++ (HostRef.digestOfBlocks bs).toList ∧ t.H = HostRef.digestOfBlocks bs ∧
      t.host = rest ∧ t.cmds = crest ∧ t.status = s.status ∧ t.phase = .idle ∧ t.rspFull = false

/-- R102, R103: the block count is the least number of 512-bit blocks with room for the message, the marker bit and the
64-bit trailer; the extra block is needed exactly when `n mod 64 >= 56`. -/
def Obligations.BlockCountIsLeast : Prop :=
  (∀ n : Nat, 8 * n + 1 + 64 ≤ 512 * HostRef.blockCount n ∧
    (∀ b, 8 * n + 1 + 64 ≤ 512 * b → HostRef.blockCount n ≤ b) ∧
    HostRef.blockCount n = (8 * n + 1) / 512 + 1 + (if 448 < (8 * n + 1) % 512 then 1 else 0) ∧
    HostRef.blockCount n = (n + 8) / 64 + 1 ∧ (448 < (8 * n + 1) % 512 ↔ 56 ≤ n % 64) ∧
    (8 * n + 1) % 512 ≠ 0 ∧ (8 * n + 1) % 512 ≠ 448) ∧
  HostRef.blockCount 55 = 1 ∧ HostRef.blockCount 56 = 2 ∧ HostRef.blockCount 119 = 2 ∧ HostRef.blockCount 120 = 3

/-- R105, R106: the trailer overwrites only words the block assembler left zero; the last word holds the low 32 bits of the
bit length, the word before it 0 or the high 32 bits by the mode; every other word is as assembled; and for messages
of fewer than `2^29` bytes the two modes give the same words. -/
def Obligations.LengthTrailerWords : Prop :=
  ∀ msg : List Byte,
    msg.length + 9 ≤ 64 * HostRef.blockCount msg.length ∧
    HostRef.assembledWord msg (16 * HostRef.blockCount msg.length - 1) = 0 ∧
    HostRef.assembledWord msg (16 * HostRef.blockCount msg.length - 2) = 0 ∧
    (∀ mode, HostRef.paddedWord mode msg (16 * HostRef.blockCount msg.length - 1) = BitVec.ofNat 32 (8 * msg.length)) ∧
    HostRef.paddedWord .trunc32 msg (16 * HostRef.blockCount msg.length - 2) = 0 ∧
    HostRef.paddedWord .full64 msg (16 * HostRef.blockCount msg.length - 2) =
      BitVec.ofNat 32 (8 * msg.length / 2 ^ 32) ∧
    (∀ mode k, k < 16 * HostRef.blockCount msg.length - 2 →
      HostRef.paddedWord mode msg k = HostRef.assembledWord msg k) ∧
    (msg.length < 2 ^ 29 → HostRef.blocks .trunc32 msg = HostRef.blocks .full64 msg)

/-- R104, R55: byte `4k + r` of the padded message is the `r`-th byte of word `k` from its high end, the bytes being the
message, the marker `0x80` and zeros. -/
def Obligations.WordsPackBytesBigEndian : Prop :=
  ∀ (msg : List Byte) (k : Nat) (r : Fin 4),
    (HostRef.assembledWord msg k).extractLsb' (24 - 8 * r.val) 8 = HostRef.paddedByte msg (4 * k + r.val) ∧
    (∀ h : 4 * k + r.val < msg.length, HostRef.paddedByte msg (4 * k + r.val) = msg[4 * k + r.val]) ∧
    (4 * k + r.val = msg.length → HostRef.paddedByte msg (4 * k + r.val) = 0x80) ∧
    (msg.length < 4 * k + r.val → HostRef.paddedByte msg (4 * k + r.val) = 0x00)

/-- R101: a message longer than the capacity is refused before any command; any other gives the sequence of its blocks. -/
def Obligations.CapacityCheckedFirst : Prop :=
  ∀ (mode : LenMode) (maxBytes : Nat) (msg : List Byte),
    (maxBytes < msg.length → HostRef.messageCommands mode maxBytes msg = .error .capacityExceeded) ∧
    (msg.length ≤ maxBytes →
      HostRef.messageCommands mode maxBytes msg = .ok (HostRef.hashCommands (HostRef.blocks mode msg)))

/-- R80: `.cmd` is the only form that spells an illegal command: whatever any other form assembles to is legal. -/
def Obligations.AssemblerEmitsLegalCommands : Prop :=
  Asm.formOf ".cmd".toList = some .cmd ∧
  ∀ (f : Asm.Form) (ops : List Nat) (cs : List Command), f ≠ .cmd → Asm.assembleForm f ops = .ok cs →
    ∀ c ∈ cs, ∃ i, decode c = .legal i

/-- R80: WRW, WRH, RDH and RDW with an index outside the range of R75 are refused, not emitted. -/
def Obligations.AssemblerRefusesBadIndex : Prop :=
  ∀ (i d : Nat), d < 2 ^ 32 →
    (16 ≤ i → Asm.assembleForm .wrw [i, d] = .error .badIndex) ∧
    (5 ≤ i → Asm.assembleForm .wrh [i, d] = .error .badIndex) ∧
    (5 ≤ i → Asm.assembleForm .rdh [i] = .error .badIndex) ∧
    (80 ≤ i → Asm.assembleForm .rdw [i] = .error .badIndex)
end

