-- ==== Sys2Proof/Laws/State.lean ====
section
/-! SUPPORT. For each shared update of State, one lemma per field, so that no later proof unfolds a record update. -/

namespace Sys2Proof.Machine

open Sys2Proof

/-! respond -/

@[simp] theorem respond_H (v : Word) (s : State) :
    (respond v s).H = s.H := rfl
@[simp] theorem respond_M (v : Word) (s : State) :
    (respond v s).M = s.M := rfl
@[simp] theorem respond_W (v : Word) (s : State) :
    (respond v s).W = s.W := rfl
@[simp] theorem respond_work (v : Word) (s : State) :
    (respond v s).work = s.work := rfl
@[simp] theorem respond_t (v : Word) (s : State) :
    (respond v s).t = s.t := rfl
@[simp] theorem respond_win (v : Word) (s : State) :
    (respond v s).win = s.win := rfl
@[simp] theorem respond_status (v : Word) (s : State) :
    (respond v s).status = s.status := rfl
@[simp] theorem respond_rspFull (v : Word) (s : State) :
    (respond v s).rspFull = true := rfl
@[simp] theorem respond_rspData (v : Word) (s : State) :
    (respond v s).rspData = v := rfl
@[simp] theorem respond_phase (v : Word) (s : State) :
    (respond v s).phase = s.phase := rfl
@[simp] theorem respond_folding (v : Word) (s : State) :
    (respond v s).folding = s.folding := rfl
@[simp] theorem respond_hDef (v : Word) (s : State) :
    (respond v s).hDef = s.hDef := rfl
@[simp] theorem respond_mDef (v : Word) (s : State) :
    (respond v s).mDef = s.mDef := rfl
@[simp] theorem respond_wDef (v : Word) (s : State) :
    (respond v s).wDef = s.wDef := rfl
@[simp] theorem respond_host (v : Word) (s : State) :
    (respond v s).host = s.host := rfl
@[simp] theorem respond_cmds (v : Word) (s : State) :
    (respond v s).cmds = s.cmds := rfl
@[simp] theorem respond_taken (v : Word) (s : State) :
    (respond v s).taken = s.taken := rfl
@[simp] theorem respond_freeCount (v : Word) (s : State) :
    (respond v s).freeCount = s.freeCount := rfl

/-! writeBlock -/

@[simp] theorem writeBlock_H (j : Nat) (d : Word) (s : State) :
    (writeBlock j d s).H = s.H := rfl
@[simp] theorem writeBlock_M (j : Nat) (d : Word) (s : State) :
    (writeBlock j d s).M = setWord s.M j d := rfl
@[simp] theorem writeBlock_W (j : Nat) (d : Word) (s : State) :
    (writeBlock j d s).W = s.W := rfl
@[simp] theorem writeBlock_work (j : Nat) (d : Word) (s : State) :
    (writeBlock j d s).work = s.work := rfl
@[simp] theorem writeBlock_t (j : Nat) (d : Word) (s : State) :
    (writeBlock j d s).t = s.t := rfl
@[simp] theorem writeBlock_win (j : Nat) (d : Word) (s : State) :
    (writeBlock j d s).win = s.win := rfl
@[simp] theorem writeBlock_status (j : Nat) (d : Word) (s : State) :
    (writeBlock j d s).status = s.status := rfl
@[simp] theorem writeBlock_rspFull (j : Nat) (d : Word) (s : State) :
    (writeBlock j d s).rspFull = s.rspFull := rfl
@[simp] theorem writeBlock_rspData (j : Nat) (d : Word) (s : State) :
    (writeBlock j d s).rspData = s.rspData := rfl
@[simp] theorem writeBlock_phase (j : Nat) (d : Word) (s : State) :
    (writeBlock j d s).phase = s.phase := rfl
@[simp] theorem writeBlock_folding (j : Nat) (d : Word) (s : State) :
    (writeBlock j d s).folding = s.folding := rfl
@[simp] theorem writeBlock_hDef (j : Nat) (d : Word) (s : State) :
    (writeBlock j d s).hDef = s.hDef := rfl
@[simp] theorem writeBlock_mDef (j : Nat) (d : Word) (s : State) :
    (writeBlock j d s).mDef = setFlag s.mDef j := rfl
@[simp] theorem writeBlock_wDef (j : Nat) (d : Word) (s : State) :
    (writeBlock j d s).wDef = s.wDef := rfl
@[simp] theorem writeBlock_host (j : Nat) (d : Word) (s : State) :
    (writeBlock j d s).host = s.host := rfl
@[simp] theorem writeBlock_cmds (j : Nat) (d : Word) (s : State) :
    (writeBlock j d s).cmds = s.cmds := rfl
@[simp] theorem writeBlock_taken (j : Nat) (d : Word) (s : State) :
    (writeBlock j d s).taken = s.taken := rfl
@[simp] theorem writeBlock_freeCount (j : Nat) (d : Word) (s : State) :
    (writeBlock j d s).freeCount = s.freeCount := rfl

/-! writeDigest -/

@[simp] theorem writeDigest_H (i : Nat) (d : Word) (s : State) :
    (writeDigest i d s).H = setWord s.H i d := rfl
@[simp] theorem writeDigest_M (i : Nat) (d : Word) (s : State) :
    (writeDigest i d s).M = s.M := rfl
@[simp] theorem writeDigest_W (i : Nat) (d : Word) (s : State) :
    (writeDigest i d s).W = s.W := rfl
@[simp] theorem writeDigest_work (i : Nat) (d : Word) (s : State) :
    (writeDigest i d s).work = s.work := rfl
@[simp] theorem writeDigest_t (i : Nat) (d : Word) (s : State) :
    (writeDigest i d s).t = s.t := rfl
@[simp] theorem writeDigest_win (i : Nat) (d : Word) (s : State) :
    (writeDigest i d s).win = s.win := rfl
@[simp] theorem writeDigest_status (i : Nat) (d : Word) (s : State) :
    (writeDigest i d s).status = s.status := rfl
@[simp] theorem writeDigest_rspFull (i : Nat) (d : Word) (s : State) :
    (writeDigest i d s).rspFull = s.rspFull := rfl
@[simp] theorem writeDigest_rspData (i : Nat) (d : Word) (s : State) :
    (writeDigest i d s).rspData = s.rspData := rfl
@[simp] theorem writeDigest_phase (i : Nat) (d : Word) (s : State) :
    (writeDigest i d s).phase = s.phase := rfl
@[simp] theorem writeDigest_folding (i : Nat) (d : Word) (s : State) :
    (writeDigest i d s).folding = s.folding := rfl
@[simp] theorem writeDigest_hDef (i : Nat) (d : Word) (s : State) :
    (writeDigest i d s).hDef = setFlag s.hDef i := rfl
@[simp] theorem writeDigest_mDef (i : Nat) (d : Word) (s : State) :
    (writeDigest i d s).mDef = s.mDef := rfl
@[simp] theorem writeDigest_wDef (i : Nat) (d : Word) (s : State) :
    (writeDigest i d s).wDef = s.wDef := rfl
@[simp] theorem writeDigest_host (i : Nat) (d : Word) (s : State) :
    (writeDigest i d s).host = s.host := rfl
@[simp] theorem writeDigest_cmds (i : Nat) (d : Word) (s : State) :
    (writeDigest i d s).cmds = s.cmds := rfl
@[simp] theorem writeDigest_taken (i : Nat) (d : Word) (s : State) :
    (writeDigest i d s).taken = s.taken := rfl
@[simp] theorem writeDigest_freeCount (i : Nat) (d : Word) (s : State) :
    (writeDigest i d s).freeCount = s.freeCount := rfl

/-! clearStatus -/

@[simp] theorem clearStatus_H (s : State) :
    (clearStatus s).H = s.H := rfl
@[simp] theorem clearStatus_M (s : State) :
    (clearStatus s).M = s.M := rfl
@[simp] theorem clearStatus_W (s : State) :
    (clearStatus s).W = s.W := rfl
@[simp] theorem clearStatus_work (s : State) :
    (clearStatus s).work = s.work := rfl
@[simp] theorem clearStatus_t (s : State) :
    (clearStatus s).t = s.t := rfl
@[simp] theorem clearStatus_win (s : State) :
    (clearStatus s).win = s.win := rfl
@[simp] theorem clearStatus_status (s : State) :
    (clearStatus s).status = 0 := rfl
@[simp] theorem clearStatus_rspFull (s : State) :
    (clearStatus s).rspFull = s.rspFull := rfl
@[simp] theorem clearStatus_rspData (s : State) :
    (clearStatus s).rspData = s.rspData := rfl
@[simp] theorem clearStatus_phase (s : State) :
    (clearStatus s).phase = s.phase := rfl
@[simp] theorem clearStatus_folding (s : State) :
    (clearStatus s).folding = s.folding := rfl
@[simp] theorem clearStatus_hDef (s : State) :
    (clearStatus s).hDef = s.hDef := rfl
@[simp] theorem clearStatus_mDef (s : State) :
    (clearStatus s).mDef = s.mDef := rfl
@[simp] theorem clearStatus_wDef (s : State) :
    (clearStatus s).wDef = s.wDef := rfl
@[simp] theorem clearStatus_host (s : State) :
    (clearStatus s).host = s.host := rfl
@[simp] theorem clearStatus_cmds (s : State) :
    (clearStatus s).cmds = s.cmds := rfl
@[simp] theorem clearStatus_taken (s : State) :
    (clearStatus s).taken = s.taken := rfl
@[simp] theorem clearStatus_freeCount (s : State) :
    (clearStatus s).freeCount = s.freeCount := rfl

/-! recordIllegal -/

@[simp] theorem recordIllegal_H (cw : BitVec 16) (k : Cause) (s : State) :
    (recordIllegal cw k s).H = s.H := by
  unfold recordIllegal; split <;> rfl
@[simp] theorem recordIllegal_M (cw : BitVec 16) (k : Cause) (s : State) :
    (recordIllegal cw k s).M = s.M := by
  unfold recordIllegal; split <;> rfl
@[simp] theorem recordIllegal_W (cw : BitVec 16) (k : Cause) (s : State) :
    (recordIllegal cw k s).W = s.W := by
  unfold recordIllegal; split <;> rfl
@[simp] theorem recordIllegal_work (cw : BitVec 16) (k : Cause) (s : State) :
    (recordIllegal cw k s).work = s.work := by
  unfold recordIllegal; split <;> rfl
@[simp] theorem recordIllegal_t (cw : BitVec 16) (k : Cause) (s : State) :
    (recordIllegal cw k s).t = s.t := by
  unfold recordIllegal; split <;> rfl
@[simp] theorem recordIllegal_win (cw : BitVec 16) (k : Cause) (s : State) :
    (recordIllegal cw k s).win = s.win := by
  unfold recordIllegal; split <;> rfl
@[simp] theorem recordIllegal_status (cw : BitVec 16) (k : Cause) (s : State) :
    (recordIllegal cw k s).status = if statusErr s.status then s.status else packStatus cw k := by
  unfold recordIllegal; split <;> rfl
@[simp] theorem recordIllegal_rspFull (cw : BitVec 16) (k : Cause) (s : State) :
    (recordIllegal cw k s).rspFull = s.rspFull := by
  unfold recordIllegal; split <;> rfl
@[simp] theorem recordIllegal_rspData (cw : BitVec 16) (k : Cause) (s : State) :
    (recordIllegal cw k s).rspData = s.rspData := by
  unfold recordIllegal; split <;> rfl
@[simp] theorem recordIllegal_phase (cw : BitVec 16) (k : Cause) (s : State) :
    (recordIllegal cw k s).phase = s.phase := by
  unfold recordIllegal; split <;> rfl
@[simp] theorem recordIllegal_folding (cw : BitVec 16) (k : Cause) (s : State) :
    (recordIllegal cw k s).folding = s.folding := by
  unfold recordIllegal; split <;> rfl
@[simp] theorem recordIllegal_hDef (cw : BitVec 16) (k : Cause) (s : State) :
    (recordIllegal cw k s).hDef = s.hDef := by
  unfold recordIllegal; split <;> rfl
@[simp] theorem recordIllegal_mDef (cw : BitVec 16) (k : Cause) (s : State) :
    (recordIllegal cw k s).mDef = s.mDef := by
  unfold recordIllegal; split <;> rfl
@[simp] theorem recordIllegal_wDef (cw : BitVec 16) (k : Cause) (s : State) :
    (recordIllegal cw k s).wDef = s.wDef := by
  unfold recordIllegal; split <;> rfl
@[simp] theorem recordIllegal_host (cw : BitVec 16) (k : Cause) (s : State) :
    (recordIllegal cw k s).host = s.host := by
  unfold recordIllegal; split <;> rfl
@[simp] theorem recordIllegal_cmds (cw : BitVec 16) (k : Cause) (s : State) :
    (recordIllegal cw k s).cmds = s.cmds := by
  unfold recordIllegal; split <;> rfl
@[simp] theorem recordIllegal_taken (cw : BitVec 16) (k : Cause) (s : State) :
    (recordIllegal cw k s).taken = s.taken := by
  unfold recordIllegal; split <;> rfl
@[simp] theorem recordIllegal_freeCount (cw : BitVec 16) (k : Cause) (s : State) :
    (recordIllegal cw k s).freeCount = s.freeCount := by
  unfold recordIllegal; split <;> rfl

/-! illegalCommand -/

@[simp] theorem illegalCommand_H (cw : BitVec 16) (k : Cause) (s : State) :
    (illegalCommand cw k s).H = s.H := by
  unfold illegalCommand; split <;> simp [*]
@[simp] theorem illegalCommand_M (cw : BitVec 16) (k : Cause) (s : State) :
    (illegalCommand cw k s).M = s.M := by
  unfold illegalCommand; split <;> simp [*]
@[simp] theorem illegalCommand_W (cw : BitVec 16) (k : Cause) (s : State) :
    (illegalCommand cw k s).W = s.W := by
  unfold illegalCommand; split <;> simp [*]
@[simp] theorem illegalCommand_work (cw : BitVec 16) (k : Cause) (s : State) :
    (illegalCommand cw k s).work = s.work := by
  unfold illegalCommand; split <;> simp [*]
@[simp] theorem illegalCommand_t (cw : BitVec 16) (k : Cause) (s : State) :
    (illegalCommand cw k s).t = s.t := by
  unfold illegalCommand; split <;> simp [*]
@[simp] theorem illegalCommand_win (cw : BitVec 16) (k : Cause) (s : State) :
    (illegalCommand cw k s).win = s.win := by
  unfold illegalCommand; split <;> simp [*]
@[simp] theorem illegalCommand_status (cw : BitVec 16) (k : Cause) (s : State) :
    (illegalCommand cw k s).status = if statusErr s.status then s.status else packStatus cw k := by
  unfold illegalCommand; split <;> simp [*]
@[simp] theorem illegalCommand_rspFull (cw : BitVec 16) (k : Cause) (s : State) :
    (illegalCommand cw k s).rspFull = (isReadOp (opField cw) || s.rspFull) := by
  unfold illegalCommand; split <;> simp [*]
@[simp] theorem illegalCommand_rspData (cw : BitVec 16) (k : Cause) (s : State) :
    (illegalCommand cw k s).rspData = if isReadOp (opField cw) then 0 else s.rspData := by
  unfold illegalCommand; split <;> simp [*]
@[simp] theorem illegalCommand_phase (cw : BitVec 16) (k : Cause) (s : State) :
    (illegalCommand cw k s).phase = s.phase := by
  unfold illegalCommand; split <;> simp [*]
@[simp] theorem illegalCommand_folding (cw : BitVec 16) (k : Cause) (s : State) :
    (illegalCommand cw k s).folding = s.folding := by
  unfold illegalCommand; split <;> simp [*]
@[simp] theorem illegalCommand_hDef (cw : BitVec 16) (k : Cause) (s : State) :
    (illegalCommand cw k s).hDef = s.hDef := by
  unfold illegalCommand; split <;> simp [*]
@[simp] theorem illegalCommand_mDef (cw : BitVec 16) (k : Cause) (s : State) :
    (illegalCommand cw k s).mDef = s.mDef := by
  unfold illegalCommand; split <;> simp [*]
@[simp] theorem illegalCommand_wDef (cw : BitVec 16) (k : Cause) (s : State) :
    (illegalCommand cw k s).wDef = s.wDef := by
  unfold illegalCommand; split <;> simp [*]
@[simp] theorem illegalCommand_host (cw : BitVec 16) (k : Cause) (s : State) :
    (illegalCommand cw k s).host = s.host := by
  unfold illegalCommand; split <;> simp [*]
@[simp] theorem illegalCommand_cmds (cw : BitVec 16) (k : Cause) (s : State) :
    (illegalCommand cw k s).cmds = s.cmds := by
  unfold illegalCommand; split <;> simp [*]
@[simp] theorem illegalCommand_taken (cw : BitVec 16) (k : Cause) (s : State) :
    (illegalCommand cw k s).taken = s.taken := by
  unfold illegalCommand; split <;> simp [*]
@[simp] theorem illegalCommand_freeCount (cw : BitVec 16) (k : Cause) (s : State) :
    (illegalCommand cw k s).freeCount = s.freeCount := by
  unfold illegalCommand; split <;> simp [*]

/-! takeResponse -/

@[simp] theorem takeResponse_H (r : Bool) (s : State) :
    (takeResponse r s).H = s.H := by
  unfold takeResponse; split <;> simp_all
@[simp] theorem takeResponse_M (r : Bool) (s : State) :
    (takeResponse r s).M = s.M := by
  unfold takeResponse; split <;> simp_all
@[simp] theorem takeResponse_W (r : Bool) (s : State) :
    (takeResponse r s).W = s.W := by
  unfold takeResponse; split <;> simp_all
@[simp] theorem takeResponse_work (r : Bool) (s : State) :
    (takeResponse r s).work = s.work := by
  unfold takeResponse; split <;> simp_all
@[simp] theorem takeResponse_t (r : Bool) (s : State) :
    (takeResponse r s).t = s.t := by
  unfold takeResponse; split <;> simp_all
@[simp] theorem takeResponse_win (r : Bool) (s : State) :
    (takeResponse r s).win = s.win := by
  unfold takeResponse; split <;> simp_all
@[simp] theorem takeResponse_status (r : Bool) (s : State) :
    (takeResponse r s).status = s.status := by
  unfold takeResponse; split <;> simp_all
@[simp] theorem takeResponse_rspFull (r : Bool) (s : State) :
    (takeResponse r s).rspFull = (s.rspFull && !r) := by
  unfold takeResponse; split <;> simp_all
@[simp] theorem takeResponse_rspData (r : Bool) (s : State) :
    (takeResponse r s).rspData = s.rspData := by
  unfold takeResponse; split <;> simp_all
@[simp] theorem takeResponse_phase (r : Bool) (s : State) :
    (takeResponse r s).phase = s.phase := by
  unfold takeResponse; split <;> simp_all
@[simp] theorem takeResponse_folding (r : Bool) (s : State) :
    (takeResponse r s).folding = s.folding := by
  unfold takeResponse; split <;> simp_all
@[simp] theorem takeResponse_hDef (r : Bool) (s : State) :
    (takeResponse r s).hDef = s.hDef := by
  unfold takeResponse; split <;> simp_all
@[simp] theorem takeResponse_mDef (r : Bool) (s : State) :
    (takeResponse r s).mDef = s.mDef := by
  unfold takeResponse; split <;> simp_all
@[simp] theorem takeResponse_wDef (r : Bool) (s : State) :
    (takeResponse r s).wDef = s.wDef := by
  unfold takeResponse; split <;> simp_all
@[simp] theorem takeResponse_host (r : Bool) (s : State) :
    (takeResponse r s).host = s.host := by
  unfold takeResponse; split <;> simp_all
@[simp] theorem takeResponse_cmds (r : Bool) (s : State) :
    (takeResponse r s).cmds = s.cmds := by
  unfold takeResponse; split <;> simp_all
@[simp] theorem takeResponse_taken (r : Bool) (s : State) :
    (takeResponse r s).taken = if s.rspFull && r then s.taken ++ [s.rspData] else s.taken := by
  unfold takeResponse; split <;> simp_all
@[simp] theorem takeResponse_freeCount (r : Bool) (s : State) :
    (takeResponse r s).freeCount = s.freeCount := by
  unfold takeResponse; split <;> simp_all

/-! processBlock -/

@[simp] theorem processBlock_H (s : State) :
    (processBlock s).H = compress s.H s.M := rfl
@[simp] theorem processBlock_M (s : State) :
    (processBlock s).M = s.M := rfl
@[simp] theorem processBlock_W (s : State) :
    (processBlock s).W = expand s.M := rfl
@[simp] theorem processBlock_work (s : State) :
    (processBlock s).work = rounds s.H (expand s.M) := rfl
@[simp] theorem processBlock_t (s : State) :
    (processBlock s).t = Config.freeT s.freeCount := rfl
@[simp] theorem processBlock_win (s : State) :
    (processBlock s).win = lastWindow (expand s.M) := rfl
@[simp] theorem processBlock_status (s : State) :
    (processBlock s).status = s.status := rfl
@[simp] theorem processBlock_rspFull (s : State) :
    (processBlock s).rspFull = s.rspFull := rfl
@[simp] theorem processBlock_rspData (s : State) :
    (processBlock s).rspData = s.rspData := rfl
@[simp] theorem processBlock_phase (s : State) :
    (processBlock s).phase = s.phase := rfl
@[simp] theorem processBlock_folding (s : State) :
    (processBlock s).folding = false := rfl
@[simp] theorem processBlock_hDef (s : State) :
    (processBlock s).hDef = s.hDef := rfl
@[simp] theorem processBlock_mDef (s : State) :
    (processBlock s).mDef = s.mDef := rfl
@[simp] theorem processBlock_wDef (s : State) :
    (processBlock s).wDef = true := rfl
@[simp] theorem processBlock_host (s : State) :
    (processBlock s).host = s.host := rfl
@[simp] theorem processBlock_cmds (s : State) :
    (processBlock s).cmds = s.cmds := rfl
@[simp] theorem processBlock_taken (s : State) :
    (processBlock s).taken = s.taken := rfl
@[simp] theorem processBlock_freeCount (s : State) :
    (processBlock s).freeCount = s.freeCount + 1 := rfl

/-! acceptProc -/

@[simp] theorem acceptProc_H (s : State) :
    (acceptProc s).H = s.H := rfl
@[simp] theorem acceptProc_M (s : State) :
    (acceptProc s).M = s.M := rfl
@[simp] theorem acceptProc_W (s : State) :
    (acceptProc s).W = s.W := rfl
@[simp] theorem acceptProc_work (s : State) :
    (acceptProc s).work = Work.ofDigest s.H := rfl
@[simp] theorem acceptProc_t (s : State) :
    (acceptProc s).t = 0 := rfl
@[simp] theorem acceptProc_win (s : State) :
    (acceptProc s).win = s.M := rfl
@[simp] theorem acceptProc_status (s : State) :
    (acceptProc s).status = s.status := rfl
@[simp] theorem acceptProc_rspFull (s : State) :
    (acceptProc s).rspFull = s.rspFull := rfl
@[simp] theorem acceptProc_rspData (s : State) :
    (acceptProc s).rspData = s.rspData := rfl
@[simp] theorem acceptProc_phase (s : State) :
    (acceptProc s).phase = .busy := rfl
@[simp] theorem acceptProc_folding (s : State) :
    (acceptProc s).folding = false := rfl
@[simp] theorem acceptProc_hDef (s : State) :
    (acceptProc s).hDef = s.hDef := rfl
@[simp] theorem acceptProc_mDef (s : State) :
    (acceptProc s).mDef = s.mDef := rfl
@[simp] theorem acceptProc_wDef (s : State) :
    (acceptProc s).wDef = s.wDef := rfl
@[simp] theorem acceptProc_host (s : State) :
    (acceptProc s).host = s.host := rfl
@[simp] theorem acceptProc_cmds (s : State) :
    (acceptProc s).cmds = s.cmds := rfl
@[simp] theorem acceptProc_taken (s : State) :
    (acceptProc s).taken = s.taken := rfl
@[simp] theorem acceptProc_freeCount (s : State) :
    (acceptProc s).freeCount = s.freeCount := rfl

/-! roundCycle -/

@[simp] theorem roundCycle_H (s : State) :
    (roundCycle s).H = s.H := rfl
@[simp] theorem roundCycle_M (s : State) :
    (roundCycle s).M = s.M := rfl
@[simp] theorem roundCycle_W (s : State) :
    (roundCycle s).W = setWord s.W s.t.toNat (windowWord s.win s.t.toNat) := rfl
@[simp] theorem roundCycle_work (s : State) :
    (roundCycle s).work = roundStep s.t.toNat s.work (windowWord s.win s.t.toNat) := rfl
@[simp] theorem roundCycle_t (s : State) :
    (roundCycle s).t = nextCount s := rfl
@[simp] theorem roundCycle_win (s : State) :
    (roundCycle s).win = nextWindow s.win s.t.toNat := rfl
@[simp] theorem roundCycle_status (s : State) :
    (roundCycle s).status = s.status := rfl
@[simp] theorem roundCycle_rspFull (s : State) :
    (roundCycle s).rspFull = s.rspFull := rfl
@[simp] theorem roundCycle_rspData (s : State) :
    (roundCycle s).rspData = s.rspData := rfl
@[simp] theorem roundCycle_phase (s : State) :
    (roundCycle s).phase = s.phase := rfl
@[simp] theorem roundCycle_folding (s : State) :
    (roundCycle s).folding = decide (79 ≤ s.t.toNat) := rfl
@[simp] theorem roundCycle_hDef (s : State) :
    (roundCycle s).hDef = s.hDef := rfl
@[simp] theorem roundCycle_mDef (s : State) :
    (roundCycle s).mDef = s.mDef := rfl
@[simp] theorem roundCycle_wDef (s : State) :
    (roundCycle s).wDef = s.wDef := rfl
@[simp] theorem roundCycle_host (s : State) :
    (roundCycle s).host = s.host := rfl
@[simp] theorem roundCycle_cmds (s : State) :
    (roundCycle s).cmds = s.cmds := rfl
@[simp] theorem roundCycle_taken (s : State) :
    (roundCycle s).taken = s.taken := rfl
@[simp] theorem roundCycle_freeCount (s : State) :
    (roundCycle s).freeCount = s.freeCount := rfl

/-! foldCycle -/

@[simp] theorem foldCycle_H (s : State) :
    (foldCycle s).H = fold s.H s.work := rfl
@[simp] theorem foldCycle_M (s : State) :
    (foldCycle s).M = s.M := rfl
@[simp] theorem foldCycle_W (s : State) :
    (foldCycle s).W = s.W := rfl
@[simp] theorem foldCycle_work (s : State) :
    (foldCycle s).work = s.work := rfl
@[simp] theorem foldCycle_t (s : State) :
    (foldCycle s).t = Config.freeT s.freeCount := rfl
@[simp] theorem foldCycle_win (s : State) :
    (foldCycle s).win = s.win := rfl
@[simp] theorem foldCycle_status (s : State) :
    (foldCycle s).status = s.status := rfl
@[simp] theorem foldCycle_rspFull (s : State) :
    (foldCycle s).rspFull = s.rspFull := rfl
@[simp] theorem foldCycle_rspData (s : State) :
    (foldCycle s).rspData = s.rspData := rfl
@[simp] theorem foldCycle_phase (s : State) :
    (foldCycle s).phase = .idle := rfl
@[simp] theorem foldCycle_folding (s : State) :
    (foldCycle s).folding = false := rfl
@[simp] theorem foldCycle_hDef (s : State) :
    (foldCycle s).hDef = s.hDef := rfl
@[simp] theorem foldCycle_mDef (s : State) :
    (foldCycle s).mDef = s.mDef := rfl
@[simp] theorem foldCycle_wDef (s : State) :
    (foldCycle s).wDef = true := rfl
@[simp] theorem foldCycle_host (s : State) :
    (foldCycle s).host = s.host := rfl
@[simp] theorem foldCycle_cmds (s : State) :
    (foldCycle s).cmds = s.cmds := rfl
@[simp] theorem foldCycle_taken (s : State) :
    (foldCycle s).taken = s.taken := rfl
@[simp] theorem foldCycle_freeCount (s : State) :
    (foldCycle s).freeCount = s.freeCount + 1 := rfl

/-! resetRegisters -/

@[simp] theorem resetRegisters_H (s : State) :
    (resetRegisters s).H = Config.freeH s.freeCount := rfl
@[simp] theorem resetRegisters_M (s : State) :
    (resetRegisters s).M = Config.freeM s.freeCount := rfl
@[simp] theorem resetRegisters_W (s : State) :
    (resetRegisters s).W = Config.freeW s.freeCount := rfl
@[simp] theorem resetRegisters_work (s : State) :
    (resetRegisters s).work = Work.ofDigest (Config.freeWork s.freeCount) := rfl
@[simp] theorem resetRegisters_t (s : State) :
    (resetRegisters s).t = Config.freeT s.freeCount := rfl
@[simp] theorem resetRegisters_win (s : State) :
    (resetRegisters s).win = Config.freeWindow s.freeCount := rfl
@[simp] theorem resetRegisters_status (s : State) :
    (resetRegisters s).status = 0 := rfl
@[simp] theorem resetRegisters_rspFull (s : State) :
    (resetRegisters s).rspFull = false := rfl
@[simp] theorem resetRegisters_rspData (s : State) :
    (resetRegisters s).rspData = Config.freeRspData s.freeCount := rfl
@[simp] theorem resetRegisters_phase (s : State) :
    (resetRegisters s).phase = .idle := rfl
@[simp] theorem resetRegisters_folding (s : State) :
    (resetRegisters s).folding = false := rfl
@[simp] theorem resetRegisters_hDef (s : State) :
    (resetRegisters s).hDef = Vector.replicate 5 false := rfl
@[simp] theorem resetRegisters_mDef (s : State) :
    (resetRegisters s).mDef = Vector.replicate 16 false := rfl
@[simp] theorem resetRegisters_wDef (s : State) :
    (resetRegisters s).wDef = false := rfl
@[simp] theorem resetRegisters_host (s : State) :
    (resetRegisters s).host = s.host := rfl
@[simp] theorem resetRegisters_cmds (s : State) :
    (resetRegisters s).cmds = s.cmds := rfl
@[simp] theorem resetRegisters_taken (s : State) :
    (resetRegisters s).taken = s.taken := rfl
@[simp] theorem resetRegisters_freeCount (s : State) :
    (resetRegisters s).freeCount = s.freeCount + 1 := rfl

/-! resetEdge -/

@[simp] theorem resetEdge_H (p : HostDrive) (s : State) :
    (resetEdge p s).H = Config.freeH s.freeCount := by
  simp [resetEdge]
@[simp] theorem resetEdge_M (p : HostDrive) (s : State) :
    (resetEdge p s).M = Config.freeM s.freeCount := by
  simp [resetEdge]
@[simp] theorem resetEdge_W (p : HostDrive) (s : State) :
    (resetEdge p s).W = Config.freeW s.freeCount := by
  simp [resetEdge]
@[simp] theorem resetEdge_work (p : HostDrive) (s : State) :
    (resetEdge p s).work = Work.ofDigest (Config.freeWork s.freeCount) := by
  simp [resetEdge]
@[simp] theorem resetEdge_t (p : HostDrive) (s : State) :
    (resetEdge p s).t = Config.freeT s.freeCount := by
  simp [resetEdge]
@[simp] theorem resetEdge_win (p : HostDrive) (s : State) :
    (resetEdge p s).win = Config.freeWindow s.freeCount := by
  simp [resetEdge]
@[simp] theorem resetEdge_status (p : HostDrive) (s : State) :
    (resetEdge p s).status = 0 := by
  simp [resetEdge]
@[simp] theorem resetEdge_rspFull (p : HostDrive) (s : State) :
    (resetEdge p s).rspFull = false := by
  simp [resetEdge]
@[simp] theorem resetEdge_rspData (p : HostDrive) (s : State) :
    (resetEdge p s).rspData = Config.freeRspData s.freeCount := by
  simp [resetEdge]
@[simp] theorem resetEdge_phase (p : HostDrive) (s : State) :
    (resetEdge p s).phase = .idle := by
  simp [resetEdge]
@[simp] theorem resetEdge_folding (p : HostDrive) (s : State) :
    (resetEdge p s).folding = false := by
  simp [resetEdge]
@[simp] theorem resetEdge_hDef (p : HostDrive) (s : State) :
    (resetEdge p s).hDef = Vector.replicate 5 false := by
  simp [resetEdge]
@[simp] theorem resetEdge_mDef (p : HostDrive) (s : State) :
    (resetEdge p s).mDef = Vector.replicate 16 false := by
  simp [resetEdge]
@[simp] theorem resetEdge_wDef (p : HostDrive) (s : State) :
    (resetEdge p s).wDef = false := by
  simp [resetEdge]
@[simp] theorem resetEdge_host (p : HostDrive) (s : State) :
    (resetEdge p s).host = s.host := by
  simp [resetEdge]
@[simp] theorem resetEdge_cmds (p : HostDrive) (s : State) :
    (resetEdge p s).cmds = s.cmds := by
  simp [resetEdge]
@[simp] theorem resetEdge_taken (p : HostDrive) (s : State) :
    (resetEdge p s).taken = if s.rspFull && p.rspReady then s.taken ++ [s.rspData] else s.taken := by
  simp [resetEdge]
@[simp] theorem resetEdge_freeCount (p : HostDrive) (s : State) :
    (resetEdge p s).freeCount = s.freeCount + 1 := by
  simp [resetEdge]

end Sys2Proof.Machine
end

