-- ==== Sys2Proof/Laws/Ops.lean ====
section
/-! SUPPORT. One lemma for each shared operation that says what it can do, cited instead of unfolding it. -/

namespace Sys2Proof.Machine

open Sys2Proof

/-! Reading and writing one word of an array. -/

/-- Inside the array, `wordAt` is the array's own element. -/
theorem wordAt_eq_getElem {n : Nat} (v : Vector Word n) (i : Nat) (h : i < n) : wordAt v i = v[i] := by
  simp [wordAt, h]

/-- A read after a write: the written word at its index, every other word as before. -/
theorem wordAt_setWord {n : Nat} (v : Vector Word n) (i k : Nat) (x : Word) (h : k < n) :
    wordAt (setWord v i x) k = if k = i then x else wordAt v k := by
  unfold wordAt setWord
  rw [Vector.getElem?_setIfInBounds]
  by_cases hk : i = k
  · subst hk; simp [h]
  · simp [hk, Ne.symm hk]

/-- A validity bit after a bit has been set. -/
theorem flagAt_setFlag {n : Nat} (v : Vector Bool n) (i k : Nat) (h : k < n) :
    flagAt (setFlag v i) k = if k = i then true else flagAt v k := by
  unfold flagAt setFlag
  rw [Vector.getElem?_setIfInBounds]
  by_cases hk : i = k
  · subst hk; simp [h]
  · simp [hk, Ne.symm hk]

/-- Inside the array, `flagAt` is the array's own element. -/
theorem flagAt_eq_getElem {n : Nat} (v : Vector Bool n) (i : Nat) (h : i < n) : flagAt v i = v[i] := by
  simp [flagAt, h]

/-- Two arrays with the same words are equal. -/
theorem vector_ext_wordAt {n : Nat} {v w : Vector Word n} (h : ∀ i, i < n → wordAt v i = wordAt w i) : v = w := by
  apply Vector.ext
  intro i hi
  have := h i hi
  rwa [wordAt_eq_getElem _ _ hi, wordAt_eq_getElem _ _ hi] at this

/-! Operand forms. -/

/-- An indexed instruction in range answers its body. -/
theorem indexed_inRange (i : Instr) (idx : BitVec 7) (body : Nat → State → State) (s : State)
    (h : idx.toNat < indexLimit (opField (encode i).cw)) : indexed i idx body s = .next (body idx.toNat s) := by
  simp [indexed, indexOperand, h]

/-- An indexed instruction out of range is the illegal-command action. -/
theorem indexed_outOfRange (i : Instr) (idx : BitVec 7) (body : Nat → State → State) (s : State)
    (h : indexLimit (opField (encode i).cw) ≤ idx.toNat) :
    indexed i idx body s = .next (illegalCommand (encode i).cw .badIndex s) := by
  simp [indexed, indexOperand, Nat.not_lt.mpr h]

/-- The value of an encoded command word (R73). -/
theorem commandWord_toNat (op : BitVec 4) (idx : BitVec 7) :
    (commandWord op idx).toNat = op.toNat * 4096 + idx.toNat := by
  have h := idx.isLt
  have e : (commandWord op idx).toNat = (op.toNat <<< 5 ||| 0) <<< 7 ||| idx.toNat := by
    unfold commandWord
    exact (BitVec.toNat_append (op ++ 0#5) idx).trans (by rw [BitVec.toNat_append]; rfl)
  rw [e, Nat.or_zero, ← Nat.shiftLeft_add_eq_or_of_lt h, Nat.shiftLeft_eq, Nat.shiftLeft_eq]
  omega

/-- The fields of a command word as digits of its value. -/
theorem opField_toNat (cw : BitVec 16) : (opField cw).toNat = cw.toNat / 4096 := by
  have := cw.isLt
  simp [opField, BitVec.extractLsb'_toNat, Nat.shiftRight_eq_div_pow]
  omega

theorem rsvField_toNat (cw : BitVec 16) : (rsvField cw).toNat = cw.toNat / 128 % 32 := by
  simp [rsvField, BitVec.extractLsb'_toNat, Nat.shiftRight_eq_div_pow]

theorem idxField_toNat (cw : BitVec 16) : (idxField cw).toNat = cw.toNat % 128 := by
  simp [idxField, BitVec.extractLsb'_toNat]

/-- The fields of an encoded command word are those it was made of. -/
@[simp] theorem opField_commandWord (op : BitVec 4) (idx : BitVec 7) : opField (commandWord op idx) = op := by
  apply BitVec.eq_of_toNat_eq
  have := idx.isLt
  rw [opField_toNat, commandWord_toNat]; omega

@[simp] theorem rsvField_commandWord (op : BitVec 4) (idx : BitVec 7) : rsvField (commandWord op idx) = 0 := by
  apply BitVec.eq_of_toNat_eq
  have := idx.isLt
  rw [rsvField_toNat, commandWord_toNat]; simp; omega

@[simp] theorem idxField_commandWord (op : BitVec 4) (idx : BitVec 7) : idxField (commandWord op idx) = idx := by
  apply BitVec.eq_of_toNat_eq
  have := idx.isLt
  rw [idxField_toNat, commandWord_toNat]; omega

/-- A command word is the encoding of its fields when its reserved bits are zero. -/
theorem commandWord_fields (cw : BitVec 16) (h : rsvField cw = 0) : commandWord (opField cw) (idxField cw) = cw := by
  apply BitVec.eq_of_toNat_eq
  have h' := congrArg BitVec.toNat h
  rw [rsvField_toNat] at h'
  rw [commandWord_toNat, opField_toNat, idxField_toNat]
  simp at h'; omega

/-! The interface: what one edge can do. -/

/-- A command is offered where `cmd_valid = 1` and the host has one to send. -/
theorem offeredCommand_eq_some {p : HostDrive} {s : State} {c : Command} :
    offeredCommand p s = some c ↔ p.cmdValid = true ∧ ∃ crest, s.cmds = c :: crest := by
  unfold offeredCommand
  cases p.cmdValid <;> cases s.cmds <;> simp

/-- No command is offered where `cmd_valid = 0` or the host has none to send. -/
theorem offeredCommand_eq_none {p : HostDrive} {s : State} :
    offeredCommand p s = none ↔ p.cmdValid = false ∨ s.cmds = [] := by
  unfold offeredCommand
  cases p.cmdValid <;> cases s.cmds <;> simp

/-- The cases of one edge: an accepted command; an edge that accepts none; reset. -/
theorem edge_cases {perform : Command → State → Host.Outcome State Fault Refusal} {s : State}
    {o : Host.Outcome State Fault Refusal} (h : edge perform s = o) :
    (∃ c, offeredCommand (nextDrive s) s = some c ∧ cmdReady (nextDrive s).rstN s = true ∧
      o = perform c { s with host := s.host.tail, cmds := s.cmds.tail }) ∨
    ((nextDrive s).rstN = true ∧ (offeredCommand (nextDrive s) s = none ∨ cmdReady true s = false) ∧
      o = .next (waitEdge (nextDrive s) { s with host := s.host.tail })) ∨
    ((nextDrive s).rstN = false ∧ o = .next (resetEdge (nextDrive s) { s with host := s.host.tail })) := by
  subst h
  unfold edge
  generalize nextDrive s = p
  cases hr : p.rstN with
  | false => exact .inr (.inr ⟨rfl, by simp [hr]⟩)
  | true =>
    cases hc : offeredCommand p s with
    | none => exact .inr (.inl ⟨rfl, .inl rfl, by simp [hr, hc]⟩)
    | some c =>
      cases hrdy : cmdReady true s with
      | true => exact .inl ⟨c, rfl, rfl, by simp [hr, hc, hrdy]⟩
      | false => exact .inr (.inl ⟨rfl, .inr rfl, by simp [hr, hc, hrdy]⟩)

/-- What an accepted command does: its meaning, or the illegal-command action. -/
theorem performCommand_cases (c : Command) (s : State) :
    (∃ i, decode c = .legal i ∧ performCommand c s = exec i s) ∨
    (∃ k, decode c = .illegal k ∧ performCommand c s = .next (illegalCommand c.cw k s)) := by
  unfold performCommand
  cases decode c with
  | legal i => exact .inl ⟨i, rfl, rfl⟩
  | illegal k => exact .inr ⟨k, rfl, rfl⟩

/-- A decoded cause is the cause the legality check finds. -/
theorem illegalCause_of_decode {c : Command} {k : Cause} (h : decode c = .illegal k) : illegalCause c.cw = some k := by
  unfold decode at h
  cases hc : illegalCause c.cw with
  | some k' => simp_all
  | none =>
    rw [hc] at h
    have hop : (opField c.cw).toNat < 9 := by
      by_contra hge
      simp [illegalCause, Nat.not_lt.mp hge] at hc
    simp only [decodeOp] at h
    split at h <;> simp_all
    omega

end Sys2Proof.Machine
end

