-- ==== Sys2Proof/Laws/PerInstr.lean ====
section
/-! SUPPORT. Statements made per instruction: one lemma per constructor of Instr. -/

namespace Sys2Proof.Laws.EncodingShape

open Sys2Proof Sys2Proof.Machine

/-- R71, R75: an encoded command word has a defined opcode and zero reserved bits, whatever the operands. -/
def Statement (i : Instr) : Prop := (opField (encode i).cw).toNat ≤ 8 ∧ rsvField (encode i).cw = 0

/-- The two facts for a command word built from its fields. -/
theorem of_commandWord (op : BitVec 4) (idx : BitVec 7) (h : op.toNat ≤ 8) :
    (opField (commandWord op idx)).toNat ≤ 8 ∧ rsvField (commandWord op idx) = 0 := by
  rw [opField_commandWord, rsvField_commandWord]
  exact ⟨h, rfl⟩

theorem nop : Statement .nop := of_commandWord 0 0 (by decide)
theorem init : Statement .init := of_commandWord 1 0 (by decide)
theorem wrw (j : BitVec 7) (d : Word) : Statement (.wrw j d) := of_commandWord 2 j (by decide)
theorem proc : Statement .proc := of_commandWord 3 0 (by decide)
theorem wrh (i : BitVec 7) (d : Word) : Statement (.wrh i d) := of_commandWord 4 i (by decide)
theorem rdh (i : BitVec 7) : Statement (.rdh i) := of_commandWord 5 i (by decide)
theorem rdw (t : BitVec 7) : Statement (.rdw t) := of_commandWord 6 t (by decide)
theorem rdst : Statement .rdst := of_commandWord 7 0 (by decide)
theorem clrerr : Statement .clrerr := of_commandWord 8 0 (by decide)

end Sys2Proof.Laws.EncodingShape
end

