-- ==== Sys2Proof/Laws/Step.lean ====
section
/-! SUPPORT. What the instructions, the engine and runs can do, said once: result equations of the indexed commands, that
every meaning answers a next state, the state a BUSY cycle leaves alone, and how runs compose. -/

namespace Sys2Proof.Machine

open Sys2Proof

/-! Result equations of the indexed commands in range. -/

theorem execWrw_inRange (j : BitVec 7) (d : Word) (s : State) (h : j.toNat < 16) :
    execWrw j d s = .next (writeBlock j.toNat d s) :=
  indexed_inRange _ _ _ _ (by simpa [encode, indexLimit] using h)

theorem execWrh_inRange (i : BitVec 7) (d : Word) (s : State) (h : i.toNat < 5) :
    execWrh i d s = .next (writeDigest i.toNat d s) :=
  indexed_inRange _ _ _ _ (by simpa [encode, indexLimit] using h)

theorem execRdh_inRange (i : BitVec 7) (s : State) (h : i.toNat < 5) :
    execRdh i s = .next (respond (wordAt s.H i.toNat) s) :=
  indexed_inRange _ _ _ _ (by simpa [encode, indexLimit] using h)

theorem execRdw_inRange (t : BitVec 7) (s : State) (h : t.toNat < 80) :
    execRdw t s = .next (respond (wordAt s.W t.toNat) s) :=
  indexed_inRange _ _ _ _ (by simpa [encode, indexLimit] using h)

/-- An indexed command answers one of two next states. -/
theorem indexed_answers (i : Instr) (idx : BitVec 7) (body : Nat → State → State) (s : State) :
    indexed i idx body s = .next (body idx.toNat s) ∨
    indexed i idx body s = .next (illegalCommand (encode i).cw .badIndex s) := by
  by_cases h : idx.toNat < indexLimit (opField (encode i).cw)
  · exact .inl (indexed_inRange _ _ _ _ h)
  · exact .inr (indexed_outOfRange _ _ _ _ (Nat.not_lt.mp h))

/-- Every meaning answers a next state. -/
theorem exec_answers (i : Instr) (s : State) : ∃ t, exec i s = .next t := by
  cases i with
  | wrw j d => rcases indexed_answers (.wrw j d) j (fun k u => writeBlock k d u) s with h | h <;> exact ⟨_, h⟩
  | wrh k d => rcases indexed_answers (.wrh k d) k (fun k u => writeDigest k d u) s with h | h <;> exact ⟨_, h⟩
  | rdh k => rcases indexed_answers (.rdh k) k (fun k u => respond (wordAt u.H k) u) s with h | h <;> exact ⟨_, h⟩
  | rdw t => rcases indexed_answers (.rdw t) t (fun k u => respond (wordAt u.W k) u) s with h | h <;> exact ⟨_, h⟩
  | nop => exact ⟨_, rfl⟩
  | init => exact ⟨_, rfl⟩
  | proc => exact ⟨_, rfl⟩
  | rdst => exact ⟨_, rfl⟩
  | clrerr => exact ⟨_, rfl⟩

/-- An accepted command that decodes runs its instruction on the checked machine where it reads no undefined word. -/
theorem execStrict_of_defined {i : Instr} {s : State} (h : undefinedRead i s = none) : execStrict i s = exec i s := by
  simp [execStrict, h]

/-- At the level of clock cycles a command either starts PROC or does what it does at the transaction level. -/
theorem performCycle_cases (c : Command) (s : State) :
    (decode c = .legal .proc ∧ performCycle c s = .next (acceptProc s)) ∨
    (decode c ≠ .legal .proc ∧ performCycle c s = performCommand c s) := by
  unfold performCycle
  split
  · exact .inl ⟨‹_›, rfl⟩
  · exact .inr ⟨‹_›, rfl⟩

/-! What one cycle of a BUSY engine leaves alone. -/

@[simp] theorem nextCount_toNat (s : State) :
    (nextCount s).toNat = if s.t.toNat < 79 then s.t.toNat + 1 else (Config.freeFoldT s.freeCount).val := by
  have := (Config.freeFoldT s.freeCount).isLt
  unfold nextCount
  split
  · rw [BitVec.toNat_add]; simp; omega
  · simp; omega

/-- The counter stays in `0..79` (R25). -/
theorem nextCount_le (s : State) : (nextCount s).toNat ≤ 79 := by
  have := (Config.freeFoldT s.freeCount).isLt
  rw [nextCount_toNat]; split <;> omega

@[simp] theorem engineCycle_M (s : State) : (engineCycle s).M = s.M := by unfold engineCycle; split <;> simp
@[simp] theorem engineCycle_status (s : State) : (engineCycle s).status = s.status := by unfold engineCycle; split <;> simp
@[simp] theorem engineCycle_rspFull (s : State) : (engineCycle s).rspFull = s.rspFull := by
  unfold engineCycle; split <;> simp
@[simp] theorem engineCycle_rspData (s : State) : (engineCycle s).rspData = s.rspData := by
  unfold engineCycle; split <;> simp
@[simp] theorem engineCycle_hDef (s : State) : (engineCycle s).hDef = s.hDef := by unfold engineCycle; split <;> simp
@[simp] theorem engineCycle_mDef (s : State) : (engineCycle s).mDef = s.mDef := by unfold engineCycle; split <;> simp
@[simp] theorem engineCycle_host (s : State) : (engineCycle s).host = s.host := by unfold engineCycle; split <;> simp
@[simp] theorem engineCycle_cmds (s : State) : (engineCycle s).cmds = s.cmds := by unfold engineCycle; split <;> simp
@[simp] theorem engineCycle_taken (s : State) : (engineCycle s).taken = s.taken := by unfold engineCycle; split <;> simp

/-- An IDLE engine holds the state at an edge without an accepted command (R217). -/
theorem engineTick_idle {s : State} (h : s.phase = .idle) : engineTick s = s := by simp [engineTick, h]

theorem engineTick_busy {s : State} (h : s.phase = .busy) : engineTick s = engineCycle s := by simp [engineTick, h]

/-- A ready interface is `rst_n = 1`, an IDLE engine and no pending response (R242). -/
theorem cmdReady_iff (r : Bool) (s : State) :
    cmdReady r s = true ↔ r = true ∧ s.phase = .idle ∧ s.rspFull = false := by
  cases r <;> simp [cmdReady]

/-- A command on the port of a ready interface leaves the port and is performed. -/
theorem edge_accept {perform : Command → State → Host.Outcome State Fault Refusal} {s : State} {p : HostDrive}
    {rest : List HostDrive} {c : Command} {crest : List Command} (hh : s.host = p :: rest) (hv : p.cmdValid = true)
    (hc : s.cmds = c :: crest) (hrdy : cmdReady p.rstN s = true) :
    edge perform s = perform c { s with host := rest, cmds := crest } := by
  have hr : p.rstN = true := ((cmdReady_iff _ _).mp hrdy).1
  have ho : offeredCommand p s = some c := offeredCommand_eq_some.mpr ⟨hv, crest, hc⟩
  simp [edge, nextDrive, hh, hc, ho, hr, hr ▸ hrdy]

/-- An edge with `rst_n = 1` at which no command is offered, or the interface is not ready, accepts none. -/
theorem edge_wait {perform : Command → State → Host.Outcome State Fault Refusal} {s : State}
    (hr : (nextDrive s).rstN = true) (h : offeredCommand (nextDrive s) s = none ∨ cmdReady true s = false) :
    edge perform s = .next (waitEdge (nextDrive s) { s with host := s.host.tail }) := by
  rcases h with h | h
  · simp [edge, hr, h]
  · cases ho : offeredCommand (nextDrive s) s <;> simp [edge, hr, h, ho]

/-- An edge with `rst_n = 0` is the reset edge, whatever the core is doing. -/
theorem edge_reset {perform : Command → State → Host.Outcome State Fault Refusal} {s : State}
    (hr : (nextDrive s).rstN = false) :
    edge perform s = .next (resetEdge (nextDrive s) { s with host := s.host.tail }) := by
  simp [edge, hr]

/-! Runs. -/

/-- A run of one step is the step. -/
theorem run_one (M : Host.Core) (s : M.State) : M.run 1 s = M.step s := by
  simp only [Host.Core.run]
  generalize M.step s = o
  cases o <;> rfl

/-- A run continues from where its first part ended. -/
theorem run_add (M : Host.Core) (a b : Nat) (s t : M.State) (h : M.run a s = .next t) : M.run (a + b) s = M.run b t := by
  induction a generalizing s with
  | zero => cases h; rw [Nat.zero_add]
  | succ n ih =>
    rw [show n + 1 + b = (n + b) + 1 by omega, Host.Core.run]
    rw [Host.Core.run] at h
    cases hs : M.step s with
    | next s' => rw [hs] at h; exact ih s' h
    | fault r => rw [hs] at h; cases h
    | refused r => rw [hs] at h; cases h

end Sys2Proof.Machine
end

