-- ==== Sys2Proof/Tests/Slice0.lean ====
section
/-! SUPPORT. Tests on fixed values taken from the spec's worked examples and vectors (95_test_vectors.md), and for every
statement with hypotheses a witness that meets them. -/

namespace Sys2Proof.Tests

open Sys2Proof Sys2Proof.Machine

/-! WellFormed: each check refuses an ill-formed term and takes the greatest index (R75). -/

theorem test_wf_wrw : (Instr.wrw 16 0).wellFormed = false ∧ (Instr.wrw 15 0).wellFormed = true := by decide
theorem test_wf_wrh : (Instr.wrh 5 0).wellFormed = false ∧ (Instr.wrh 4 0).wellFormed = true := by decide
theorem test_wf_rdh : (Instr.rdh 5).wellFormed = false ∧ (Instr.rdh 4).wellFormed = true := by decide
theorem test_wf_rdw : (Instr.rdw 80).wellFormed = false ∧ (Instr.rdw 79).wellFormed = true := by decide

/-! Decoding: words written out from the fields of R71 and the map of R75. -/

theorem test_decode_nop : decode ⟨0b0000_00000_0000000, 9⟩ = .legal .nop := by decide
theorem test_decode_init : decode ⟨0b0001_00000_0000000, 9⟩ = .legal .init := by decide
theorem test_decode_wrw : decode ⟨0b0010_00000_0001111, 9⟩ = .legal (.wrw 15 9) := by decide
theorem test_decode_proc : decode ⟨0b0011_00000_0000000, 9⟩ = .legal .proc := by decide
theorem test_decode_wrh : decode ⟨0b0100_00000_0000001, 9⟩ = .legal (.wrh 1 9) := by decide
theorem test_decode_rdh : decode ⟨0b0101_00000_0000100, 9⟩ = .legal (.rdh 4) := by decide
theorem test_decode_rdw : decode ⟨0b0110_00000_1000000, 9⟩ = .legal (.rdw 64) := by decide
theorem test_decode_rdst : decode ⟨0b0111_00000_0000000, 9⟩ = .legal .rdst := by decide
theorem test_decode_clrerr : decode ⟨0b1000_00000_0000000, 9⟩ = .legal .clrerr := by decide

/-- The illegal words of TV-C2, TV-C4, TV-C8, TV-C10, TV-C11, TV-C12, with their causes. -/
theorem test_decode_illegal :
    decode ⟨0x2010, 0⟩ = .illegal .badIndex ∧ decode ⟨0x4005, 0⟩ = .illegal .badIndex ∧
    decode ⟨0x6050, 0⟩ = .illegal .badIndex ∧ decode ⟨0xF123, 0⟩ = .illegal .reservedOp ∧
    decode ⟨0x0080, 0⟩ = .illegal .reservedBits ∧ decode ⟨0x2090, 0⟩ = .illegal .reservedBits := by decide

/-- The examples of R73. -/
theorem test_encode_examples :
    (encode (.wrw 3 0)).cw = 0x2003 ∧ (encode (.rdw 79)).cw = 0x604F ∧ (encode .proc).cw = 0x3000 := by decide

/-- The table's numbering: the command word is the low sixteen bits, and the data word counts on from them. -/
theorem test_table_words :
    decodeTableWord 16 0x2003 = some (.wrw 3 0) ∧ decodeTableWord 16 0x9000 = none ∧
    decodeTableWord 48 0x616263804000 = some (.wrh 0 0x61626380) := by decide

/-! One step on small states. -/

/-- The state after an outcome; for a stop, the reset state. -/
def after (o : Host.Outcome State Fault Refusal) : State :=
  match o with
  | .next s => s
  | .fault _ => State.reset
  | .refused _ => State.reset

/-- The reset machine with one command on its port. -/
def porting (cw : BitVec 16) (data : Word) : State := offered ⟨cw, data⟩ State.reset

/-- The reset machine with `INIT` done. -/
def started : State := after (exec .init State.reset)

/-- The reset machine with STATUS 0x90000003, as after TV-C9. -/
def failed : State := { State.reset with status := 0x90000003 }

/-- A state with the initial digest and a block `d0, 0, ..., 0, d15`. -/
def loaded (d0 d15 : Word) : State := { started with M := #v[d0, 0, 0, 0, 0, 0, 0, 0, 0, 0, 0, 0, 0, 0, 0, d15] }

/-- TV-C1. -/
theorem test_wrw : wordAt (after (step (porting 0x2005 0xDEADBEEF))).M 5 = 0xDEADBEEF := by decide
/-- TV-C2. -/
theorem test_wrw_illegal : after (exec (.wrw 16 7) State.reset) = { State.reset with status := 0x20100007 } := by decide
/-- TV-C3. -/
theorem test_wrh : (after (exec (.wrh 4 0) started)).H = #v[0x67452301, 0xEFCDAB89, 0x98BADCFE, 0x10325476, 0] := by decide
/-- TV-C4. -/
theorem test_wrh_illegal : (after (exec (.wrh 5 7) State.reset)).status = 0x40050007 := by decide
/-- TV-C5. -/
theorem test_rdh : (after (exec (.rdh 2) started)).rspData = 0x98BADCFE ∧ (after (exec (.rdh 2) started)).rspFull = true := by
  decide
/-- TV-C6. -/
theorem test_rdh_illegal : after (step (porting 0x504F 0)) =
    { State.reset with status := 0x504F0007, rspFull := true, rspData := 0 } := by decide
/-- TV-C8 and TV-C18. -/
theorem test_rdw_illegal : after (exec (.rdw 80) State.reset) =
    { State.reset with status := 0x60500007, rspFull := true } ∧
    (after (exec (.rdw 80) failed)).status = 0x90000003 := by decide
/-- TV-C9 and program P4: the reserved opcode, then RDST. -/
theorem test_reserved_op : (after (step (porting 0x9000 0))).status = 0x90000003 ∧
    (after (step (porting 0x9000 0))).rspFull = false ∧ (after (exec .rdst failed)).rspData = 0x90000003 := by decide
/-- TV-C16 and TV-C17. -/
theorem test_clrerr : (after (performCommand ⟨0x8001, 0⟩ failed)).status = 0x90000003 ∧
    (after (performCommand ⟨0x8000, 0⟩ failed)).status = 0 := by decide
/-- TV-C19. -/
theorem test_init : (after (performCommand ⟨0x1000, 0xFFFFFFFF⟩ State.reset)).H =
    #v[0x67452301, 0xEFCDAB89, 0x98BADCFE, 0x10325476, 0xC3D2E1F0] := by decide
/-- NOP leaves every register as it was (R181). -/
theorem test_nop : after (performCommand ⟨0x0000, 5⟩ failed) = failed := by decide
/-- TV-C20: the checked machine faults, the chip completes. -/
theorem test_undefined_read : execStrict (.rdh 0) State.reset = .fault (.undefinedRead (.digest 0)) ∧
    (after (exec (.rdh 0) State.reset)).rspFull = true := ⟨rfl, by decide⟩

/-- TV-L2, TV-R1, program P1: PROC of the "abc" block from the initial state. -/
theorem test_proc_abc : (after (exec .proc (loaded 0x61626380 0x18))).H =
    #v[0xA9993E36, 0x4706816A, 0xBA3E2571, 0x7850C26C, 0x9CD0D89D] ∧
    (after (exec .proc (loaded 0x61626380 0x18))).work =
      ⟨0x42541B35, 0x5738D5E1, 0x21834873, 0x681E6DF6, 0xD8FDF6AD⟩ := by decide +kernel
/-- TV-L1: PROC of the empty message's block. -/
theorem test_proc_empty : (after (exec .proc (loaded 0x80000000 0))).H =
    #v[0xDA39A3EE, 0x5E6B4B0D, 0x3255BFEF, 0x95601890, 0xAFD80709] := by decide +kernel

/-- TV-C7 and R139's example: schedule words of the "abc" block. -/
theorem test_rdw : (after (exec (.rdw 16) (after (exec .proc (loaded 0x61626380 0x18))))).rspData = 0xC2C4C700 ∧
    (after (exec (.rdw 79) (after (exec .proc (loaded 0x61626380 0x18))))).rspData = 0x822E0879 := by decide +kernel
/-- TV-X3: a single low bit in the last word. -/
theorem test_expand_single_bit : wordAt (expand #v[0, 0, 0, 0, 0, 0, 0, 0, 0, 0, 0, 0, 0, 0, 0, 1]) 18 = 2 ∧
    wordAt (expand #v[0, 0, 0, 0, 0, 0, 0, 0, 0, 0, 0, 0, 0, 0, 0, 1]) 40 = 0 ∧
    wordAt (expand #v[0, 0, 0, 0, 0, 0, 0, 0, 0, 0, 0, 0, 0, 0, 0, 1]) 41 = 0xA0 := by decide +kernel
/-- The worked example of R157, round 0 of "abc". -/
theorem test_round : roundStep 0 (Work.ofDigest ivRom) 0x61626380 =
    ⟨0x0116FC33, 0x67452301, 0x7BF36AE2, 0x98BADCFE, 0x10325476⟩ := by decide
/-- TV-F1 to TV-F3. -/
theorem test_round_functions : choose 0xFFFF0000 0xFF00FF00 0xF0F0F0F0 = 0xFF00F0F0 ∧
    parity 0xFFFF0000 0xFF00FF00 0xF0F0F0F0 = 0xF00F0FF0 ∧
    majority 0xFFFF0000 0xFF00FF00 0xF0F0F0F0 = 0xFFF0F000 := by decide
/-- TV-A3 to TV-A9. -/
theorem test_rotations : rotl32 0x80000000 1 = 1 ∧ rotl32 0x80000000 5 = 0x10 ∧ rotl32 0x08000000 5 = 1 ∧
    rotl32 1 30 = 0x40000000 ∧ rotl32 3 30 = 0xC0000000 ∧ rotl32 0x67452301 5 = 0xE8A4602C ∧
    rotl32 0xEFCDAB89 30 = 0x7BF36AE2 := by decide

/-- R102 boundaries (R103) and TV-P2: the padded block of "abc". -/
theorem test_padding : HostRef.blockCount 55 = 1 ∧ HostRef.blockCount 56 = 2 ∧ HostRef.blockCount 120 = 3 ∧
    (HostRef.blocks .trunc32 [0x61, 0x62, 0x63]) =
      [#v[0x61626380, 0, 0, 0, 0, 0, 0, 0, 0, 0, 0, 0, 0, 0, 0, 0x18]] := by decide +kernel
/-- R108: rendering of the digest of the empty message. -/
theorem test_render : HostRef.digestHex #v[0xDA39A3EE, 0x5E6B4B0D, 0x3255BFEF, 0x95601890, 0xAFD80709] =
    "DA39A3EE5E6B4B0D3255BFEF95601890AFD80709".toList := by decide
/-- R80: a line with a comment; a raw pair. -/
theorem test_assemble : Asm.assembleLine "WRW 0, 0x61626380 ; first word".toList = .ok [⟨0x2000, 0x61626380⟩] ∧
    Asm.assembleLine ".cmd 0x9000, 0".toList = .ok [⟨0x9000, 0⟩] ∧
    Asm.assembleLine "RDDIGEST".toList = .ok [⟨0x5000, 0⟩, ⟨0x5001, 0⟩, ⟨0x5002, 0⟩, ⟨0x5003, 0⟩, ⟨0x5004, 0⟩] := by
  decide
/-- Program P4's last line: refused. -/
theorem test_assemble_refuses : Asm.assembleLine "WRW 16, 0x1234".toList = .error .badIndex := by decide

/-! The host's fetch: the very next step runs the word. -/

theorem test_fetch : after (step (State.reset.withFetchWord 16 0x4003)) =
    { State.reset with hDef := #v[false, false, false, true, false] } := by decide

/-! Witnesses: for every statement with hypotheses, states and operands that meet all of them together; where a statement
has several clauses, one witness for each, at the boundary values of its range. -/

/-- Both `Hdef` and `Mdef` set throughout, the digest initial, the block zero. -/
def ready : State := { started with mDef := Vector.replicate 16 true }

/-- A host that drives these port values and sends these commands, and a core that can accept a command. -/
def driven (ps : List HostDrive) (cs : List Command) : State := { ready with host := ps, cmds := cs }

/-- The core in a round of a PROC, with round counter `t`. -/
def running (t : BitVec 7) (ps : List HostDrive) (cs : List Command) : State :=
  { driven ps cs with phase := .busy, t := t }

/-- A response word waiting to be taken. -/
def pending (ps : List HostDrive) (cs : List Command) : State :=
  { driven ps cs with rspFull := true, rspData := 0x98BADCFE }

/-- The port values of an edge that offers a command and takes a response, of one that offers none and takes none, and of
two reset edges. -/
def bothDrive : HostDrive := ⟨true, true, true⟩
def quietDrive : HostDrive := ⟨true, false, false⟩
def resetDrive (ready : Bool) : HostDrive := ⟨false, true, ready⟩

theorem witness_DecodeOfEncode : [Instr.nop, .init, .wrw 15 7, .proc, .wrh 4 7, .rdh 4, .rdw 79, .rdst, .clrerr].all
    (·.wellFormed) = true := by decide
theorem witness_EncodeOfDecode : decode ⟨0x200F, 7⟩ = .legal (.wrw 15 7) ∧ decode ⟨0x604F, 7⟩ = .legal (.rdw 79) := by
  decide
theorem witness_IllegalCauseByFields : decode ⟨0x9000, 7⟩ = .illegal .reservedOp ∧
    decode ⟨0x8F80, 7⟩ = .illegal .reservedBits ∧ decode ⟨0x604F, 7⟩ = .legal (.rdw 79) ∧
    decode ⟨0x6050, 7⟩ = .illegal .badIndex ∧ decode ⟨0x8001, 7⟩ = .illegal .badIndex := by decide
theorem witness_OpcodeRowsMatchDecoder : opcodeRows[0]? = some ⟨0x0000, 0xFFFF, 0⟩ ∧
    opcodeRows[6]? = some ⟨0x6000, 0xFF80, 79⟩ ∧ opcodeRows[8]? = some ⟨0x8000, 0xFFFF, 0⟩ := by decide
theorem witness_DataWordIgnored : ((0x3000 : BitVec 16).toNat / 4096 ≠ 2 ∧ (0x3000 : BitVec 16).toNat / 4096 ≠ 4) ∧
    ∃ k, decode ⟨0x2010, 7⟩ = .illegal k := ⟨by decide, _, rfl⟩
theorem witness_StepRunsDecodedCommand : (porting 0x200F 7).host = [offerDrive] ∧ offerDrive.rstN = true ∧
    offerDrive.cmdValid = true ∧ (porting 0x200F 7).cmds = [⟨0x200F, 7⟩] ∧ (porting 0x200F 7).phase = .idle ∧
    (porting 0x200F 7).rspFull = false ∧ decode ⟨0x200F, 7⟩ = .legal (.wrw 15 7) ∧
    (porting 0x3000 7).cmds = [⟨0x3000, 7⟩] ∧ decode ⟨0x3000, 7⟩ = .legal .proc ∧
    (porting 0x2010 7).cmds = [⟨0x2010, 7⟩] ∧ decode ⟨0x2010, 7⟩ = .illegal .badIndex := by decide

/-- The three causes, each with a read opcode where one has it and with another, from `ERR = 0` and from `ERR = 1`. -/
theorem witness_IllegalCommandAction : decode ⟨0xF123, 7⟩ = .illegal .reservedOp ∧
    decode ⟨0x7080, 7⟩ = .illegal .reservedBits ∧ decode ⟨0x5005, 7⟩ = .illegal .badIndex ∧
    decode ⟨0x8001, 7⟩ = .illegal .badIndex ∧
    State.reset.status.getLsbD 0 = false ∧ failed.status.getLsbD 0 = true ∧
    ((0x5005 : BitVec 16).toNat / 4096 = 5 ∧ (0x7080 : BitVec 16).toNat / 4096 = 7) ∧
    (0x8001 : BitVec 16).toNat / 4096 = 8 ∧ (0xF123 : BitVec 16).toNat / 4096 = 15 := by decide

/-- An illegal command from `ERR = 0`, a CLRERR, and a reset edge each change STATUS. -/
theorem witness_StatusWriters : (∃ t, step (porting 0x8001 7) = .next t ∧ t.status ≠ (porting 0x8001 7).status) ∧
    (∃ t, step (offered ⟨0x8000, 7⟩ failed) = .next t ∧ t.status ≠ failed.status) ∧
    ∃ t, step { failed with host := [resetDrive false] } = .next t ∧ t.status ≠ failed.status :=
  ⟨⟨_, rfl, by decide⟩, ⟨_, rfl, by decide⟩, ⟨_, rfl, by decide⟩⟩

theorem witness_StepKeepsInvariant : (State.Inv (porting 0x9000 7) ∧ ∃ t, step (porting 0x9000 7) = .next t) ∧
    State.Inv failed ∧ ∃ t, step failed = .next t :=
  ⟨⟨⟨by decide, rfl⟩, _, rfl⟩, ⟨by decide, rfl⟩, _, rfl⟩

/-- Each opcode has an illegal word with a reserved bit set, and one with its first index out of range. -/
theorem witness_IllegalOutside : ([0x0FFF, 0x1080, 0x2080, 0x3080, 0x4080, 0x5080, 0x6080, 0x7080, 0x8080] : List Nat).all
    (fun n => n / 128 % 32 != 0) = true ∧
    (([(0x0001, 1), (0x1001, 1), (0x2010, 16), (0x3001, 1), (0x4005, 5), (0x5005, 5), (0x6050, 80), (0x7001, 1),
      (0x8001, 1)] : List (Nat × Nat)).all fun x => x.1 / 128 % 32 == 0 && x.1 % 128 == x.2) = true := by decide

/-- The last index in range and the first out of it, for the four commands with an index. -/
theorem witness_indices : (15 : BitVec 7).toNat ≤ 15 ∧ 16 ≤ (16 : BitVec 7).toNat ∧ (4 : BitVec 7).toNat ≤ 4 ∧
    5 ≤ (5 : BitVec 7).toNat ∧ (79 : BitVec 7).toNat < 80 ∧ 80 ≤ (80 : BitVec 7).toNat ∧ 80 ≤ (127 : BitVec 7).toNat := by
  decide
theorem witness_WrwWritesOneBlockWord : (∃ t, exec (.wrw 15 7) State.reset = .next t ∧ wordAt t.M 15 = 7) ∧
    exec (.wrw 16 7) State.reset = .next (illegalCommand 0x2010 .badIndex State.reset) := ⟨⟨_, rfl, by decide⟩, rfl⟩
theorem witness_WrhWritesOneDigestRegister : (∃ t, exec (.wrh 4 7) State.reset = .next t ∧ wordAt t.H 4 = 7) ∧
    exec (.wrh 5 7) State.reset = .next (illegalCommand 0x4005 .badIndex State.reset) := ⟨⟨_, rfl, by decide⟩, rfl⟩
theorem witness_RdhRespondsDigestRegister : ready.hDef[4] = true ∧ State.reset.hDef[4] = false ∧
    exec (.rdh 5) ready = .next (illegalCommand 0x5005 .badIndex ready) := ⟨by decide, by decide, rfl⟩
theorem witness_RdwRespondsScheduleWord : State.reset.wDef = false ∧ { ready with wDef := true }.wDef = true ∧
    exec (.rdw 80) ready = .next (illegalCommand 0x6050 .badIndex ready) := ⟨by decide, by decide, rfl⟩
theorem witness_ProcExpandsRoundsAndFolds : (∀ i : Fin 5, ready.hDef[i.val] = true) ∧
    (∀ j : Fin 16, ready.mDef[j.val] = true) ∧ (∃ i : Fin 5, State.reset.hDef[i.val] = false) ∧
    ∃ j : Fin 16, started.mDef[j.val] = false := by decide
theorem witness_WrhOfInitialValuesIsInit : ∃ s0 s1 s2 s3 s4,
    exec (.wrh 0 0x67452301) State.reset = .next s0 ∧ exec (.wrh 1 0xEFCDAB89) s0 = .next s1 ∧
    exec (.wrh 2 0x98BADCFE) s1 = .next s2 ∧ exec (.wrh 3 0x10325476) s2 = .next s3 ∧
    exec (.wrh 4 0xC3D2E1F0) s3 = .next s4 := ⟨_, _, _, _, _, rfl, rfl, rfl, rfl, rfl⟩

/-- Each clause of the statement has a command that does write what the clause is about. -/
theorem witness_WritersOfEachRegister : (∃ t, exec (.wrw 15 7) ready = .next t ∧ t.M ≠ ready.M) ∧
    (∃ t, exec .proc ready = .next t ∧ t.work ≠ ready.work) ∧ (∃ t, exec (.wrh 4 7) ready = .next t ∧ t.H ≠ ready.H) ∧
    (∃ t, exec .clrerr failed = .next t ∧ t.status ≠ failed.status) ∧
    ∃ t, exec (.rdw 80) ready = .next t ∧ t.status ≠ ready.status :=
  ⟨⟨_, rfl, by decide⟩, ⟨_, rfl, by decide +kernel⟩, ⟨_, rfl, by decide⟩, ⟨_, rfl, by decide⟩, _, rfl, by decide⟩
theorem witness_ReadsAndWritesIdempotent : (Instr.rdh 4).wellFormed = true ∧ (Instr.rdw 79).wellFormed = true ∧
    (Instr.wrw 15 7).wellFormed = true ∧ (Instr.wrh 4 7).wellFormed = true ∧ (∃ t, exec (.rdw 79) ready = .next t) ∧
    (∃ t, exec .rdst ready = .next t) ∧ (∃ t, exec (.wrw 15 7) ready = .next t) ∧ ∃ t, exec .init ready = .next t :=
  ⟨rfl, rfl, rfl, rfl, ⟨_, rfl⟩, ⟨_, rfl⟩, ⟨_, rfl⟩, _, rfl⟩

theorem witness_RotationMovesBits : rotl32 0x80000001 1 = 3 ∧ rotl32 0x80000001 31 = 0xC0000000 := by decide
/-- The two ends of each range of rounds; no round falls in two ranges. -/
theorem witness_RoundSelectionByRange : [0, 19, 20, 39, 40, 59, 60, 79].map roundConstant =
    [0x5A827999, 0x5A827999, 0x6ED9EBA1, 0x6ED9EBA1, 0x8F1BBCDC, 0x8F1BBCDC, 0xCA62C1D6, 0xCA62C1D6] ∧
    [0, 19, 20, 39, 40, 59, 60, 79].map (roundFunction · 0xFFFF0000 0xFF00FF00 0xF0F0F0F0) =
    [0xFF00F0F0, 0xFF00F0F0, 0xF00F0FF0, 0xF00F0FF0, 0xFFF0F000, 0xFFF0F000, 0xF00F0FF0, 0xF00F0FF0] := by decide
theorem witness_RoundIsSimultaneousUpdate : (0 : Nat) < 80 ∧ 79 < 80 := by decide
theorem witness_ExpansionRecurrence : (16 : Nat) ≤ 16 ∧ 16 < 80 ∧ 16 ≤ 79 ∧ 79 < 80 := by decide
theorem witness_ExpansionIsLinear : ∀ j : Fin 16, (Vector.replicate 16 6#32)[j.val] =
    (Vector.replicate 16 5#32)[j.val] ^^^ (Vector.replicate 16 3#32)[j.val] := by decide
theorem witness_WorkIsDigestDifference : ∃ t, exec .proc ready = .next t := ⟨_, rfl⟩
theorem witness_StateAfterRoundCycles : (0 : Nat) ≤ 80 ∧ 16 ≤ 80 ∧ 17 ≤ 80 ∧ 80 ≤ 80 := by decide

/-- PROC is offered and can be accepted; the host then drives nothing, or drives `rsp_ready` first 0 and then 1 while its
next command waits. -/
theorem witness_MicroSequenceRefinesProc : (driven [offerDrive] [⟨0x3000, 7⟩]).host = offerDrive :: [] ∧
    (driven [offerDrive, offerDrive, bothDrive] [⟨0x3000, 7⟩, ⟨0x5000, 0⟩]).host = offerDrive :: [offerDrive, bothDrive] ∧
    (driven [offerDrive] [⟨0x3000, 7⟩]).cmds = ⟨0x3000, 7⟩ :: [] ∧ offerDrive.rstN = true ∧ offerDrive.cmdValid = true ∧
    decode ⟨0x3000, 7⟩ = .legal .proc ∧ ready.phase = .idle ∧ ready.rspFull = false ∧
    (∀ q ∈ ([] : List HostDrive).take Config.referenceProcCycles, q.rstN = true) ∧
    ∀ q ∈ [offerDrive, bothDrive].take Config.referenceProcCycles, q.rstN = true := by decide
/-- The first and the last BUSY cycle. -/
theorem witness_ProcHoldsInterfaceBusy : decode ⟨0x3000, 7⟩ = .legal .proc ∧ 1 ≤ 1 ∧ 1 ≤ Config.referenceProcCycles ∧
    1 ≤ 81 ∧ 81 ≤ Config.referenceProcCycles ∧ (∀ q ∈ [resetDrive true].take (1 - 1), q.rstN = true) ∧
    ∀ q ∈ [offerDrive, bothDrive].take (81 - 1), q.rstN = true := by decide

/-- The core in the fold cycle of a PROC. -/
def foldingCore (t : BitVec 7) : State := { running t [] [] with folding := true }

/-- IDLE with an illegal command on the port, BUSY in round 79, and BUSY in the fold cycle with either end of `0..79`. -/
theorem witness_ClockKeepsInvariant : State.ClockInv (porting 0x9000 7) ∧ State.ClockInv (running 79 [] []) ∧
    State.ClockInv (foldingCore 0) ∧ State.ClockInv (foldingCore 79) ∧ (∃ t, clock (porting 0x9000 7) = .next t) ∧
    (∃ t, clock (running 79 [] []) = .next t ∧ t.folding = true ∧ t.phase = .busy) ∧
    ∃ t, clock (foldingCore 0) = .next t ∧ t.folding = false ∧ t.phase = .idle := by
  refine ⟨⟨by decide, by decide, by decide⟩, ⟨by decide, by decide, by decide⟩, ⟨by decide, by decide, by decide⟩,
    ⟨by decide, by decide, by decide⟩, ⟨_, rfl⟩, ⟨_, rfl, rfl, rfl⟩, _, rfl, rfl, rfl⟩

theorem witness_OfferedCommandWaits : (running 79 [offerDrive] [⟨0x200F, 7⟩]).phase = .busy ∧
    (pending [bothDrive] [⟨0x200F, 7⟩]).rspFull = true ∧ (pending [bothDrive] [⟨0x200F, 7⟩]).phase = .idle ∧
    (pending [bothDrive] [⟨0x200F, 7⟩]).cmds ≠ [] ∧ offerDrive.rstN = true ∧ offerDrive.cmdValid = true ∧
    bothDrive.rstN = true ∧ bothDrive.cmdValid = true := by decide
/-- A host that offers its command with `rsp_ready = 0` and raises `rsp_ready` at the next edge. -/
theorem witness_WaitingCommandFollowsResponse :
    (pending [offerDrive, bothDrive, offerDrive] [⟨0x200F, 7⟩]).host = [offerDrive] ++ bothDrive :: offerDrive :: [] ∧
    (pending [offerDrive, bothDrive, offerDrive] [⟨0x200F, 7⟩]).cmds = ⟨0x200F, 7⟩ :: [] ∧
    (pending [offerDrive, bothDrive, offerDrive] [⟨0x200F, 7⟩]).phase = .idle ∧
    (pending [offerDrive, bothDrive, offerDrive] [⟨0x200F, 7⟩]).rspFull = true ∧
    (∀ d ∈ [offerDrive], d.rstN = true ∧ d.rspReady = false) ∧ bothDrive.rstN = true ∧ bothDrive.rspReady = true ∧
    offerDrive.rstN = true ∧ offerDrive.cmdValid = true := by decide
theorem witness_ResponseTakenWhenReady : (pending [takeDrive] []).rspFull = true ∧ takeDrive.rstN = true ∧
    takeDrive.rspReady = true ∧ offerDrive.rstN = true ∧ offerDrive.rspReady = false := by decide
/-- A reset edge during a PROC, and one while a response is pending, taken and not taken. -/
theorem witness_ResetEdgeClears : (resetDrive true).rstN = false ∧ (resetDrive false).rstN = false ∧
    (running 79 [resetDrive true] [⟨0x3000, 7⟩]).rspFull = false ∧ (pending [resetDrive true] []).rspFull = true ∧
    (resetDrive true).rspReady = true ∧ (resetDrive false).rspReady = false := by decide
theorem witness_IdleCoreHoldsState : ready.phase = .idle ∧ ready.host = [] ∧ (driven [quietDrive] []).host = [quietDrive] ∧
    quietDrive.rstN = true ∧ quietDrive.cmdValid = false ∧ takeDrive.rstN = true ∧ takeDrive.cmdValid = false ∧
    (driven [takeDrive] []).rspFull = false ∧ quietDrive.rspReady = false ∧ (pending [takeDrive] []).phase = .idle ∧
    (pending [takeDrive] []).rspFull = true ∧ takeDrive.rspReady = true ∧ (driven [bothDrive] []).cmds = [] := by decide

/-- Each of the four kinds of undefined word, and a read of none. -/
theorem witness_UndefinedReadFaults : execStrict (.rdh 4) State.reset = .fault (.undefinedRead (.digest 4)) ∧
    execStrict (.rdw 79) ready = .fault (.undefinedRead .schedule) ∧
    execStrict .proc State.reset = .fault (.undefinedRead (.digest 0)) ∧
    execStrict .proc started = .fault (.undefinedRead (.block 0)) ∧
    (∀ r, execStrict (.rdh 4) ready ≠ .fault (.undefinedRead r)) ∧
    stepStrict (driven [offerDrive] [⟨0x604F, 7⟩]) = .fault (.undefinedRead .schedule) :=
  ⟨rfl, rfl, rfl, rfl, fun _ h => Host.Outcome.noConfusion rfl rfl rfl (heq_of_eq h), rfl⟩

/-- Two states that differ in an unwritten block word and in the unwritten schedule; from one pair the checked machine
goes on, from another it faults. -/
theorem witness_UnwrittenWordsDoNotMatter :
    AgreeOnWritten (porting 0x2000 7) { porting 0x2000 7 with M := Vector.replicate 16 9, W := Vector.replicate 80 9 } ∧
    (∃ t, stepStrict (porting 0x2000 7) = .next t) ∧
    AgreeOnWritten (porting 0x604F 7) { porting 0x604F 7 with W := Vector.replicate 80 9 } ∧
    stepStrict (porting 0x604F 7) = .fault (.undefinedRead .schedule) := by
  refine ⟨⟨⟨rfl, rfl⟩, rfl, rfl, fun _ => rfl, rfl, rfl, rfl, fun _ _ _ => rfl, ?_, ?_, rfl, rfl, rfl, rfl⟩, ⟨_, rfl⟩,
    ⟨⟨rfl, rfl⟩, rfl, rfl, fun _ => rfl, rfl, rfl, rfl, fun _ _ _ => rfl, fun _ _ _ => rfl, ?_, rfl, rfl, rfl, rfl⟩, rfl⟩
  · intro i hi h
    exact absurd h ((by decide : ∀ i : Fin 16, flagAt (porting 0x2000 7).mDef i.val ≠ true) ⟨i, hi⟩)
  · intro h; exact absurd h (by decide)
  · intro h; exact absurd h (by decide)

theorem witness_host_sequences : ready.phase = .idle ∧ ready.rspFull = false ∧
    (∀ m, (driven (HostRef.driveAll (HostRef.hashBlock m)) (HostRef.hashBlock m)).cmds = HostRef.hashBlock m ++ []) ∧
    (∀ m, (driven (HostRef.driveAll (HostRef.hashBlock m)) (HostRef.hashBlock m)).host =
      HostRef.driveAll (HostRef.hashBlock m) ++ []) ∧
    (driven (HostRef.driveAll HostRef.readDigest) HostRef.readDigest).host = HostRef.driveAll HostRef.readDigest ++ [] ∧
    (driven (HostRef.driveAll HostRef.readDigest) HostRef.readDigest).cmds = HostRef.readDigest ++ [] ∧
    (∀ bs, (driven (HostRef.driveAll (HostRef.hashCommands bs)) (HostRef.hashCommands bs)).host =
      HostRef.driveAll (HostRef.hashCommands bs) ++ []) ∧
    ∀ bs, (driven (HostRef.driveAll (HostRef.hashCommands bs)) (HostRef.hashCommands bs)).cmds =
      HostRef.hashCommands bs ++ [] :=
  ⟨rfl, rfl, fun _ => (List.append_nil _).symm, fun _ => (List.append_nil _).symm, rfl, rfl,
    fun _ => (List.append_nil _).symm, fun _ => (List.append_nil _).symm⟩

theorem witness_LengthTrailerWords : [0x61, 0x62, 0x63].length < 2 ^ 29 ∧ 13 < 16 * HostRef.blockCount 3 - 2 := by decide
/-- A message byte, the marker and a zero of the padded message. -/
theorem witness_WordsPackBytesBigEndian : 4 * 0 + 2 < [0x61, 0x62, 0x63].length ∧ 4 * 0 + 3 = [0x61, 0x62, 0x63].length ∧
    [0x61, 0x62, 0x63].length < 4 * 1 + 0 := by decide
theorem witness_CapacityCheckedFirst : 2 < [0x61, 0x62, 0x63].length ∧ [0x61, 0x62, 0x63].length ≤ 3 := by decide
theorem witness_AssemblerEmitsLegalCommands : Asm.Form.wrw ≠ .cmd ∧
    Asm.assembleForm .wrw [15, 7] = .ok [⟨0x200F, 7⟩] ∧ Asm.assembleForm .rdw [79] = .ok [⟨0x604F, 0⟩] := by decide
theorem witness_AssemblerRefusesBadIndex : 0xFFFFFFFF < 2 ^ 32 ∧ 16 ≤ 16 ∧ 5 ≤ 5 ∧ 80 ≤ 80 := by decide

end Sys2Proof.Tests
end

section
/-! Proofs about the word operations of 00_scope.md: the left rotation of R15. -/

namespace Sys2Proof.Machine

open Sys2Proof

/-- The model's rotation is the library's, so the library's facts about `BitVec.rotateLeft` apply to it. -/
theorem rotl32_eq_rotateLeft (x : Word) {n : Nat} (hn : n < 32) : rotl32 x n = x.rotateLeft n :=
  (BitVec.rotateLeft_eq_rotateLeftAux_of_lt hn).symm

/-- Only the bits shifted out at the high end are dropped by the modulus; the part shifted right already fits. -/
theorem toNat_rotl32 (x : Word) (n : Nat) :
    (rotl32 x n).toNat = (x.toNat <<< n ||| x.toNat >>> (32 - n)) % 2 ^ 32 := by
  have hfits : x.toNat >>> (32 - n) < 2 ^ 32 := (x >>> (32 - n)).isLt
  rw [rotl32, BitVec.toNat_or, BitVec.toNat_shiftLeft, BitVec.toNat_ushiftRight, Nat.or_mod_two_pow,
    Nat.mod_eq_of_lt hfits]

/-- Below `n` a bit comes from the high end of `x`, from `n` on it has moved up by `n`; `(i - n) mod 32`, written
without a negative difference, names the source in both cases. -/
theorem getLsbD_rotl32 (x : Word) {n i : Nat} (hn : n < 32) (hi : i < 32) :
    (rotl32 x n).getLsbD i = x.getLsbD ((i + 32 - n) % 32) := by
  rw [rotl32_eq_rotateLeft x hn, BitVec.getLsbD_rotateLeft_of_le hn]
  obtain hwrapped | hmoved := Nat.lt_or_ge i n
  · have hsource : (i + 32 - n) % 32 = 32 - n + i := by omega
    simp [hwrapped, hsource]
  · have hsource : (i + 32 - n) % 32 = i - n := by omega
    simp [hmoved.not_gt, hi, hsource]

/-- Settles O25: the number formula and the bit formula of R15, both proved for every `n` below 32. -/
theorem rotationMovesBits : Obligations.RotationMovesBits := by
  intro x n _ hn
  exact ⟨toNat_rotl32 x n, fun _ hi => getLsbD_rotl32 x (by omega) hi⟩

end Sys2Proof.Machine
end

section
/-! Proofs about STATUS and the engine phase (10_state.md R28 to R34). A legal command other than CLRERR leaves both
alone, so a step writes STATUS by CLRERR, by an illegal command or by a reset edge only. -/

namespace Sys2Proof.Machine

open Sys2Proof

/-! What a legal command decodes to. -/

/-- A command word is legal when none of the three causes of R201 applies. -/
theorem illegalCause_eq_none_iff (cw : BitVec 16) :
    illegalCause cw = none ↔
      (opField cw).toNat < 9 ∧ rsvField cw = 0 ∧ (idxField cw).toNat < indexLimit (opField cw) := by
  unfold illegalCause
  split
  · simp; omega
  · split
    · simp_all
    · split <;> simp_all

/-- A command with a cause decodes to that cause, so one that decodes to an instruction has none. -/
theorem decode_eq_legal {c : Command} {i : Instr} (h : decode c = .legal i) :
    illegalCause c.cw = none ∧ decodeOp (opField c.cw) (idxField c.cw) c.data = .legal i := by
  unfold decode at h
  cases hcause : illegalCause c.cw with
  | some k => simp [hcause] at h
  | none => exact ⟨rfl, by simpa [hcause] using h⟩

/-- The one index below the limit of a command without an operand. -/
theorem index_eq_zero {idx : BitVec 7} (h : idx.toNat < 1) : idx = 0 :=
  BitVec.eq_of_toNat_eq (Nat.lt_one_iff.mp h)

/-- Row by row of the opcode map (R75): with the index below the row's limit, the instruction is well formed and its
encoding has the fields it was read from. -/
theorem decodeOp_eq_legal {op : BitVec 4} {idx : BitVec 7} {data : Word} {i : Instr}
    (hidx : idx.toNat < indexLimit op) (h : decodeOp op idx data = .legal i) :
    i.wellFormed = true ∧ (encode i).cw = commandWord op idx := by
  unfold decodeOp at h
  split at h <;> cases h
  all_goals
    rename_i hop
    have hcode := congrArg (BitVec.ofNat 4) hop
    rw [BitVec.ofNat_toNat, BitVec.setWidth_eq] at hcode
    subst hcode
  case h_1 | h_2 | h_4 | h_8 | h_9 =>
    rw [index_eq_zero hidx]
    exact ⟨rfl, rfl⟩
  case h_3 | h_5 | h_6 | h_7 => exact ⟨decide_eq_true (Nat.le_of_lt_succ hidx), rfl⟩

/-- R73, R75: a command that decodes to an instruction carries its command word, index in range. -/
theorem wellFormed_and_encode_of_decode {c : Command} {i : Instr} (h : decode c = .legal i) :
    i.wellFormed = true ∧ (encode i).cw = c.cw := by
  obtain ⟨hlegal, hop⟩ := decode_eq_legal h
  obtain ⟨-, hrsv, hidx⟩ := (illegalCause_eq_none_iff _).mp hlegal
  rw [← commandWord_fields c.cw hrsv]
  simpa using decodeOp_eq_legal hidx hop

/-! The fields of the word an illegal command writes (R203). -/

/-- The record as a number, with the cause from bit 1 up and the word from bit 16 up. -/
theorem packStatus_toNat (cw : BitVec 16) (k : Cause) :
    (packStatus cw k).toNat = cw.toNat * 65536 + (causeCode k).toNat * 2 + 1 := by
  have hcause := (causeCode k).isLt
  have happend : (packStatus cw k).toNat = ((cw.toNat <<< 12 ||| 0) <<< 3 ||| (causeCode k).toNat) <<< 1 ||| 1 := by
    unfold packStatus
    refine (BitVec.toNat_append (cw ++ 0#12 ++ causeCode k) 1#1).trans ?_
    rw [BitVec.toNat_append, BitVec.toNat_append]
    rfl
  rw [happend, Nat.or_zero, ← Nat.shiftLeft_add_eq_or_of_lt hcause, ← Nat.shiftLeft_add_eq_or_of_lt Nat.one_lt_two]
  simp only [Nat.shiftLeft_eq]
  omega

@[simp] theorem statusErr_packStatus (cw : BitVec 16) (k : Cause) : statusErr (packStatus cw k) = true := by
  rw [statusErr, BitVec.getLsbD, packStatus_toNat, Nat.testBit_zero, decide_eq_true_eq]
  omega

/-- A field of the record as a number: `n` bits from bit `i` up. -/
theorem toNat_extractLsb'_packStatus (cw : BitVec 16) (k : Cause) (i n : Nat) :
    ((packStatus cw k).extractLsb' i n).toNat =
      (cw.toNat * 65536 + (causeCode k).toNat * 2 + 1) / 2 ^ i % 2 ^ n := by
  rw [BitVec.extractLsb'_toNat, packStatus_toNat, Nat.shiftRight_eq_div_pow]

@[simp] theorem statusCause_packStatus (cw : BitVec 16) (k : Cause) :
    statusCause (packStatus cw k) = causeCode k := by
  have hcause := (causeCode k).isLt
  apply BitVec.eq_of_toNat_eq
  rw [statusCause, toNat_extractLsb'_packStatus]
  omega

@[simp] theorem statusReserved_packStatus (cw : BitVec 16) (k : Cause) : statusReserved (packStatus cw k) = 0#12 := by
  have hcause := (causeCode k).isLt
  apply BitVec.eq_of_toNat_eq
  rw [statusReserved, toNat_extractLsb'_packStatus, BitVec.toNat_zero]
  omega

@[simp] theorem statusCmd_packStatus (cw : BitVec 16) (k : Cause) : statusCmd (packStatus cw k) = cw := by
  have hcause := (causeCode k).isLt
  have hcw := cw.isLt
  apply BitVec.eq_of_toNat_eq
  rw [statusCmd, toNat_extractLsb'_packStatus]
  omega

/-- R30, R31: the record of an illegal word with the word's own cause has the form of STATUS. -/
theorem statusWellFormed_packStatus {cw : BitVec 16} {k : Cause} (h : illegalCause cw = some k) :
    statusWellFormed (packStatus cw k) = true := by
  simp [statusWellFormed, h]

/-! Who writes STATUS and the phase. -/

/-- An instruction in range leaves STATUS and the phase alone, but for CLRERR, which clears STATUS (R187). -/
theorem exec_status_phase {i : Instr} (hwf : i.wellFormed = true) (s : State) :
    ∃ t, exec i s = .next t ∧ t.status = (if i = .clrerr then 0 else s.status) ∧ t.phase = s.phase := by
  cases i with
  | nop => exact ⟨_, rfl, rfl, rfl⟩
  | init => exact ⟨_, rfl, rfl, rfl⟩
  | wrw j d => exact ⟨_, execWrw_inRange j d s (Nat.lt_succ_of_le (of_decide_eq_true hwf)), rfl, rfl⟩
  | proc => exact ⟨_, rfl, rfl, rfl⟩
  | wrh k d => exact ⟨_, execWrh_inRange k d s (Nat.lt_succ_of_le (of_decide_eq_true hwf)), rfl, rfl⟩
  | rdh k => exact ⟨_, execRdh_inRange k s (Nat.lt_succ_of_le (of_decide_eq_true hwf)), rfl, rfl⟩
  | rdw t => exact ⟨_, execRdw_inRange t s (Nat.lt_succ_of_le (of_decide_eq_true hwf)), rfl, rfl⟩
  | rdst => exact ⟨_, rfl, rfl, rfl⟩
  | clrerr => exact ⟨_, rfl, rfl, rfl⟩

/-- What an accepted command did to STATUS: nothing; it was CLRERR; or it was illegal and the first since `ERR` was 0. -/
def CommandWroteStatus (c : Command) (before after : Word) : Prop :=
  after = before ∨ (decode c = .legal .clrerr ∧ after = 0) ∨
    ∃ k, decode c = .illegal k ∧ statusErr before = false ∧ after = packStatus c.cw k

/-- An accepted command that decodes is in range, so the out-of-range branch of an indexed instruction writes nothing
here; and no accepted command changes the phase at the transaction level (R12). -/
theorem performCommand_status {c : Command} {s t : State} (h : performCommand c s = .next t) :
    CommandWroteStatus c s.status t.status ∧ t.phase = s.phase := by
  obtain ⟨i, hdec, hexec⟩ | ⟨k, hdec, hill⟩ := performCommand_cases c s
  · obtain ⟨u, hu, hstatus, hphase⟩ := exec_status_phase (wellFormed_and_encode_of_decode hdec).1 s
    cases h.symm.trans (hexec.trans hu)
    refine ⟨?_, hphase⟩
    by_cases hclr : i = .clrerr
    · exact .inr (.inl ⟨hclr ▸ hdec, by simpa [hclr] using hstatus⟩)
    · exact .inl (by simpa [hclr] using hstatus)
  · cases h.symm.trans hill
    refine ⟨?_, by simp⟩
    cases herr : statusErr s.status with
    | true => exact .inl (by simp [herr])
    | false => exact .inr (.inr ⟨k, hdec, herr, by simp [herr]⟩)

/-- No cycle of the micro-sequence writes STATUS (R29). -/
@[simp] theorem engineTick_status (s : State) : (engineTick s).status = s.status := by
  unfold engineTick
  split <;> simp

/-- An edge without an accepted command does not write STATUS. -/
@[simp] theorem waitEdge_status (p : HostDrive) (s : State) : (waitEdge p s).status = s.status := by
  simp [waitEdge]

/-- An edge without an accepted command leaves an IDLE engine IDLE (R217). -/
theorem waitEdge_phase_idle (p : HostDrive) {s : State} (h : s.phase = .idle) : (waitEdge p s).phase = .idle := by
  simp [waitEdge, engineTick_idle h, h]

/-- The writers of STATUS at one step: an accepted command, or a reset edge. -/
theorem step_status {s s' : State} (h : step s = .next s') :
    s'.status = s.status ∨
    (∃ c, offeredCommand (nextDrive s) s = some c ∧ cmdReady (nextDrive s).rstN s = true ∧
      CommandWroteStatus c s.status s'.status) ∨
    ((nextDrive s).rstN = false ∧ s'.status = 0) := by
  obtain ⟨c, hoffer, hready, hnext⟩ | ⟨-, -, hnext⟩ | ⟨hreset, hnext⟩ := edge_cases h
  · exact .inr (.inl ⟨c, hoffer, hready, (performCommand_status hnext.symm).1⟩)
  · cases hnext
    exact .inl (by simp)
  · cases hnext
    exact .inr (.inr ⟨hreset, by simp⟩)

/-- R34: at the transaction level no step starts the engine. -/
theorem step_phase_idle {s s' : State} (hidle : s.phase = .idle) (h : step s = .next s') : s'.phase = .idle := by
  obtain ⟨c, -, -, hnext⟩ | ⟨-, -, hnext⟩ | ⟨-, hnext⟩ := edge_cases h
  · exact (performCommand_status hnext.symm).2.trans hidle
  · cases hnext
    exact waitEdge_phase_idle _ hidle
  · cases hnext
    simp

/-- R30, R31: no accepted command breaks the form of STATUS, since a decoded cause is the word's own. -/
theorem CommandWroteStatus.statusWellFormed {c : Command} {before after : Word}
    (hwrote : CommandWroteStatus c before after) (hbefore : statusWellFormed before = true) :
    statusWellFormed after = true := by
  obtain rfl | ⟨-, rfl⟩ | ⟨k, hdec, -, rfl⟩ := hwrote
  · exact hbefore
  · decide
  · exact statusWellFormed_packStatus (illegalCause_of_decode hdec)

/-- Settles O11: each writer of STATUS leaves it in its form, and no step leaves IDLE. -/
theorem stepKeepsInvariant : Obligations.StepKeepsInvariant := by
  rintro s s' ⟨hstatus, hidle⟩ hstep
  refine ⟨?_, step_phase_idle hidle hstep⟩
  obtain hsame | ⟨c, -, -, hwrote⟩ | ⟨-, hzero⟩ := step_status hstep
  · exact hsame ▸ hstatus
  · exact hwrote.statusWellFormed hstatus
  · rw [hzero]
    decide

/-- Where the host drives a reset or offers a command, its list of levels has not ended (R242). -/
theorem host_eq_nextDrive_cons {s : State} (h : (nextDrive s).rstN = false ∨ (nextDrive s).cmdValid = true) :
    ∃ rest, s.host = nextDrive s :: rest := by
  cases hhost : s.host with
  | nil => simp [nextDrive, hhost] at h
  | cons p rest => exact ⟨rest, by simp [nextDrive, hhost]⟩

/-- The word of CLRERR is the one legal word that clears STATUS (R75, R187). -/
theorem cw_of_decode_clrerr {c : Command} (h : decode c = .legal .clrerr) : c.cw = 0x8000 :=
  (wellFormed_and_encode_of_decode h).2.symm

/-- Settles O10: of the writers of STATUS, only those that change it are left, and each found the host driving. -/
theorem statusWriters : Obligations.StatusWriters := by
  intro s s' hstep hchanged
  obtain hsame | ⟨c, hoffer, hready, hwrote⟩ | ⟨hreset, hzero⟩ := step_status hstep
  · exact absurd hsame hchanged
  · obtain ⟨hvalid, crest, hcmds⟩ := offeredCommand_eq_some.mp hoffer
    obtain ⟨rest, hhost⟩ := host_eq_nextDrive_cons (.inr hvalid)
    refine ⟨nextDrive s, rest, hhost, ?_⟩
    obtain hsame | ⟨hclr, hzero⟩ | ⟨k, hill, herr, hrecord⟩ := hwrote
    · exact absurd hsame hchanged
    · have hcmd : s.cmds = ⟨0x8000, c.data⟩ :: crest := cw_of_decode_clrerr hclr ▸ hcmds
      exact .inr ⟨hzero, .inr ⟨hvalid, ⟨c.data, crest, hcmd⟩, hready⟩⟩
    · exact .inl ⟨c, crest, k, hvalid, hcmds, hready, hill, herr, hrecord.trans (by cases k <;> rfl)⟩
  · obtain ⟨rest, hhost⟩ := host_eq_nextDrive_cons (.inl hreset)
    exact ⟨nextDrive s, rest, hhost, .inr ⟨hzero, .inl hreset⟩⟩

end Sys2Proof.Machine
end

section
/-! Proofs about the host's padding (40_host_reference.md R102 to R106): the block count, the bytes of the padded
message and the words they pack into, and what the length trailer writes over. -/

namespace Sys2Proof.HostRef

open Sys2Proof

/-! The block count. -/

/-- The message with its marker bit fills the last block but for a remainder that depends on `n mod 64` only (R102). -/
theorem markedLength_mod_block (n : Nat) : (8 * n + 1) % 512 = 8 * (n % 64) + 1 := by omega

/-- R102's two-step formula, with the extra block as a summand. -/
theorem blockCount_eq_add_extra (n : Nat) :
    blockCount n = (8 * n + 1) / 512 + 1 + (if 448 < (8 * n + 1) % 512 then 1 else 0) := by
  unfold blockCount
  split <;> rfl

/-- R102's closed form. -/
theorem blockCount_eq_div (n : Nat) : blockCount n = (n + 8) / 64 + 1 := by
  rw [blockCount_eq_add_extra, markedLength_mod_block]
  split <;> omega

/-- The room of R102 in whole bytes: a message byte, the marker byte and the eight bytes of the trailer. The marker's
byte offset `n` is then at most `64B - 9` (R106). -/
theorem length_add_nine_le (n : Nat) : n + 9 ≤ 64 * blockCount n := by
  rw [blockCount_eq_div]
  omega

/-- No smaller number of blocks has room for the message, the marker bit and the trailer (R102). -/
theorem blockCount_le_of_room {n b : Nat} (hroom : 8 * n + 1 + 64 ≤ 512 * b) : blockCount n ≤ b := by
  rw [blockCount_eq_div]
  omega

/-- Settles O50: the closed form of the count gives the room and the minimality, and the remainder `8 (n mod 64) + 1`
the rest. -/
theorem blockCountIsLeast : Obligations.BlockCountIsLeast := by
  refine ⟨fun n => ?_, by decide⟩
  have hroom := length_add_nine_le n
  have hmod := markedLength_mod_block n
  exact ⟨by omega, fun b => blockCount_le_of_room, blockCount_eq_add_extra n, blockCount_eq_div n, by omega, by omega,
    by omega⟩

/-! The bytes of the padded message, and the words they pack into. -/

theorem paddedByte_of_lt {msg : List Byte} {i : Nat} (h : i < msg.length) : paddedByte msg i = msg[i] := by
  rw [paddedByte, if_pos h, List.getD_eq_getElem _ _ h]

@[simp] theorem paddedByte_length (msg : List Byte) : paddedByte msg msg.length = 0x80 := by
  simp [paddedByte]

theorem paddedByte_of_gt {msg : List Byte} {i : Nat} (h : msg.length < i) : paddedByte msg i = 0x00 := by
  rw [paddedByte, if_neg h.not_gt, if_neg h.ne']

/-- R104: the first byte of a word is its high end, so byte `r` has the three minus `r` later bytes below it. -/
theorem extractLsb'_assembledWord (msg : List Byte) (k : Nat) (r : Fin 4) :
    (assembledWord msg k).extractLsb' (24 - 8 * r.val) 8 = paddedByte msg (4 * k + r.val) := by
  unfold assembledWord
  match r with
  | 0 =>
    rw [BitVec.extractLsb'_append_eq_of_le (by decide), BitVec.extractLsb'_append_eq_of_le (by decide)]
    exact BitVec.extractLsb'_append_eq_left
  | 1 =>
    rw [BitVec.extractLsb'_append_eq_of_le (by decide), BitVec.extractLsb'_append_eq_of_le (by decide)]
    exact BitVec.extractLsb'_append_eq_right
  | 2 =>
    rw [BitVec.extractLsb'_append_eq_of_le (by decide)]
    exact BitVec.extractLsb'_append_eq_right
  | 3 => exact BitVec.extractLsb'_append_eq_right

/-- Settles O52: the packing of a word, and the byte below, at and above the message's length. -/
theorem wordsPackBytesBigEndian : Obligations.WordsPackBytesBigEndian := by
  intro msg k r
  exact ⟨extractLsb'_assembledWord msg k r, paddedByte_of_lt, fun h => by rw [h, paddedByte_length], paddedByte_of_gt⟩

/-- A word all of whose bytes lie above the marker holds padding zeros only (R104). -/
theorem assembledWord_eq_zero {msg : List Byte} {k : Nat} (h : msg.length < 4 * k) : assembledWord msg k = 0 := by
  unfold assembledWord
  rw [paddedByte_of_gt h, paddedByte_of_gt (by omega), paddedByte_of_gt (by omega), paddedByte_of_gt (by omega)]
  rfl

/-- R106: the block assembler left the last two words of the buffer zero. -/
theorem assembledWord_eq_zero_of_trailer {msg : List Byte} {k : Nat} (h : 16 * blockCount msg.length - 2 ≤ k) :
    assembledWord msg k = 0 := by
  have hroom := length_add_nine_le msg.length
  exact assembledWord_eq_zero (by omega)

/-! The length trailer (R105). -/

/-- The buffer holds at least one block. -/
theorem blockCount_pos (n : Nat) : 0 < blockCount n := by
  rw [blockCount_eq_div]
  omega

@[simp] theorem paddedWord_last (mode : LenMode) (msg : List Byte) :
    paddedWord mode msg (16 * blockCount msg.length - 1) = BitVec.ofNat 32 (8 * msg.length) :=
  if_pos rfl

/-- What a mode writes into the word before the last: the high half of the bit length, or zero. -/
def trailerHighWord (mode : LenMode) (n : Nat) : Word :=
  match mode with
  | .trunc32 => 0
  | .full64 => BitVec.ofNat 32 (8 * n / 2 ^ 32)

/-- The truncated length leaves the word before the last as assembled, which is zero (R106). -/
theorem paddedWord_beforeLast (mode : LenMode) (msg : List Byte) :
    paddedWord mode msg (16 * blockCount msg.length - 2) = trailerHighWord mode msg.length := by
  have hpos := blockCount_pos msg.length
  unfold paddedWord
  rw [if_neg (by omega), if_pos rfl]
  cases mode with
  | trunc32 => exact assembledWord_eq_zero_of_trailer le_rfl
  | full64 => rfl

theorem paddedWord_of_lt (mode : LenMode) {msg : List Byte} {k : Nat} (h : k < 16 * blockCount msg.length - 2) :
    paddedWord mode msg k = assembledWord msg k := by
  unfold paddedWord
  rw [if_neg (by omega), if_neg (by omega)]

/-- R105: below `2^29` bytes the bit length fits the low word. -/
theorem trailerHighWord_eq_zero (mode : LenMode) {n : Nat} (h : n < 2 ^ 29) : trailerHighWord mode n = 0 := by
  cases mode with
  | trunc32 => rfl
  | full64 =>
    rw [trailerHighWord, Nat.div_eq_of_lt (by omega)]
    rfl

/-- R105: below `2^29` bytes neither mode changes the word before the last, and that is the only word they could differ
in. -/
theorem paddedWord_eq_of_short (mode mode' : LenMode) {msg : List Byte} (h : msg.length < 2 ^ 29) (k : Nat) :
    paddedWord mode msg k = paddedWord mode' msg k := by
  by_cases hk : k = 16 * blockCount msg.length - 2
  · rw [hk, paddedWord_beforeLast, paddedWord_beforeLast, trailerHighWord_eq_zero mode h,
      trailerHighWord_eq_zero mode' h]
  · simp only [paddedWord, if_neg hk]

/-- Blocks are made of padded words only. -/
theorem blocks_eq_of_paddedWord_eq {mode mode' : LenMode} {msg : List Byte}
    (h : ∀ k, paddedWord mode msg k = paddedWord mode' msg k) : blocks mode msg = blocks mode' msg := by
  have hblock : block mode msg = block mode' msg := funext fun b => by simp only [block, h]
  simp only [blocks, hblock]

/-- Settles O51: the room after the marker leaves the trailer's two words zero, and the trailer is each mode's value of
those two words. -/
theorem lengthTrailerWords : Obligations.LengthTrailerWords := by
  intro msg
  exact ⟨length_add_nine_le msg.length, assembledWord_eq_zero_of_trailer (by omega),
    assembledWord_eq_zero_of_trailer le_rfl, fun mode => paddedWord_last mode msg, paddedWord_beforeLast .trunc32 msg,
    paddedWord_beforeLast .full64 msg, fun mode _ => paddedWord_of_lt mode,
    fun hshort => blocks_eq_of_paddedWord_eq (paddedWord_eq_of_short .trunc32 .full64 hshort)⟩

end Sys2Proof.HostRef
end

section
/-! Facts about command words that the statements of the command families share: the legality check cause by cause
(60_exceptions.md R201, R202), what a word made of its fields decodes to (30_encoding.md R73, R75), and the words of the
arrays after a write. -/

namespace Sys2Proof.Machine

open Sys2Proof

/-! The illegal words of a defined opcode. -/

theorem illegalCause_reservedBits {cw : BitVec 16} (hop : (opField cw).toNat < 9) (hrsv : rsvField cw ≠ 0) :
    illegalCause cw = some .reservedBits := by
  rw [illegalCause, if_neg hop.not_ge, if_pos hrsv]

theorem illegalCause_badIndex {cw : BitVec 16} (hop : (opField cw).toNat < 9) (hrsv : rsvField cw = 0)
    (hidx : indexLimit (opField cw) ≤ (idxField cw).toNat) : illegalCause cw = some .badIndex := by
  rw [illegalCause, if_neg hop.not_ge, if_neg (not_not_intro hrsv), if_pos hidx]

/-- A command whose word has a cause takes the illegal-command action with that cause (R202, R203). -/
theorem performCommand_of_illegalCause {cw : BitVec 16} {k : Cause} (h : illegalCause cw = some k) (data : Word)
    (s : State) : performCommand ⟨cw, data⟩ s = .next (illegalCommand cw k s) := by
  have hdec : decode ⟨cw, data⟩ = .illegal k := by rw [decode, h]
  rw [performCommand, hdec]

/-- The reserved bits of a word are zero when the digit of its value that they stand for is. -/
theorem rsvField_eq_zero_iff (cw : BitVec 16) : rsvField cw = 0 ↔ cw.toNat / 128 % 32 = 0 := by
  rw [← rsvField_toNat]
  exact BitVec.toNat_inj.symm

/-- The illegal words of a defined opcode are those with a reserved bit set or an index from its limit up. -/
theorem illegalOutside_indexLimit {op : BitVec 4} (hop : op.toNat < 9) : IllegalOutside op.toNat (indexLimit op) := by
  intro cw data s hcw
  obtain rfl : opField cw = op := BitVec.eq_of_toNat_eq ((opField_toNat cw).trans hcw)
  rw [← idxField_toNat cw, ne_eq, ← rsvField_eq_zero_iff cw]
  exact ⟨fun hrsv => performCommand_of_illegalCause (illegalCause_reservedBits hop hrsv) data s,
    fun hrsv hidx => performCommand_of_illegalCause (illegalCause_badIndex hop hrsv hidx) data s⟩

/-! The words made of their fields. -/

/-- The opcode and the index of an encoded word do not overlap, so their sum puts them side by side (R73). -/
theorem commandWord_eq_add (op : BitVec 4) (idx : BitVec 7) :
    commandWord op idx = BitVec.ofNat 16 (op.toNat * 4096) + idx.setWidth 16 := by
  apply BitVec.eq_of_toNat_eq
  have hop := op.isLt
  have hidx := idx.isLt
  rw [commandWord_toNat, BitVec.toNat_add, BitVec.toNat_ofNat, BitVec.toNat_setWidth]
  omega

/-- A word with a defined opcode and an index below its limit passes the legality check, and the opcode map reads the
fields it was made of (R75). -/
theorem decode_commandWord {op : BitVec 4} {idx : BitVec 7} (hop : op.toNat < 9) (hidx : idx.toNat < indexLimit op)
    (data : Word) : decode ⟨commandWord op idx, data⟩ = decodeOp op idx data := by
  have hlegal : illegalCause (commandWord op idx) = none := by simp [illegalCause_eq_none_iff, hop, hidx]
  simp [decode, hlegal]

/-! The words and validity bits of an array after a write. -/

theorem getElem_setWord {n : Nat} (v : Vector Word n) (i k : Nat) (x : Word) (h : k < n) :
    (setWord v i x)[k] = if k = i then x else v[k] := by
  rw [← wordAt_eq_getElem _ _ h, wordAt_setWord _ _ _ _ h, wordAt_eq_getElem _ _ h]

theorem getElem_setFlag {n : Nat} (v : Vector Bool n) (i k : Nat) (h : k < n) :
    (setFlag v i)[k] = if k = i then true else v[k] := by
  rw [← flagAt_eq_getElem _ _ h, flagAt_setFlag _ _ _ h, flagAt_eq_getElem _ _ h]

end Sys2Proof.Machine
end

section
/-! Proofs about block load (41_block_load.md): WRW. -/

namespace Sys2Proof.Machine

open Sys2Proof

theorem encode_wrw (j : BitVec 7) (d : Word) : encode (.wrw j d) = ⟨0x2000 + j.setWidth 16, d⟩ :=
  congrArg (Command.mk · d) (commandWord_eq_add 2 j)

theorem decode_wrw_inRange {j : BitVec 7} (h : j.toNat < 16) (d : Word) :
    decode ⟨0x2000 + j.setWidth 16, d⟩ = .legal (.wrw j d) := by
  rw [← encode_wrw]
  exact decode_commandWord (op := 2) (by decide) h d

/-- The index 16 is the first that WRW does not take (R201). -/
theorem execWrw_outOfRange {j : BitVec 7} (h : 16 ≤ j.toNat) (d : Word) (s : State) :
    execWrw j d s = .next (illegalCommand (0x2000 + j.setWidth 16) .badIndex s) := by
  have hlimit : indexLimit (opField (encode (.wrw j d)).cw) ≤ j.toNat := by simpa [encode, indexLimit] using h
  rw [execWrw, indexed_outOfRange _ _ _ _ hlimit, encode_wrw]

/-- Settles O15: in range WRW is the shared block write, which touches `M` and its validity bits only; the rest are the
illegal words of opcode 2. -/
theorem wrwWritesOneBlockWord : Obligations.WrwWritesOneBlockWord := by
  refine ⟨illegalOutside_indexLimit (op := 2) (by decide), fun j d s => ⟨encode_wrw j d, fun hj => ?_,
    fun hj => execWrw_outOfRange hj d s⟩⟩
  have hrange : j.toNat < 16 := Nat.lt_succ_of_le hj
  exact ⟨decode_wrw_inRange hrange d, writeBlock j.toNat d s, execWrw_inRange j d s hrange,
    fun k => getElem_setWord s.M j.toNat k.val d k.isLt, fun k => getElem_setFlag s.mDef j.toNat k.val k.isLt, rfl⟩

end Sys2Proof.Machine
end

section
/-! Proofs about the message schedule expander (42_schedule_expander.md): the recurrence of R131, the linearity of the
expansion over XOR (R133), and RDW (R139). -/

namespace Sys2Proof.Machine

open Sys2Proof

/-! The expansion by its recurrence. -/

/-- The recurrence at `t` reads words of smaller index only (R131). -/
theorem scheduleWord_congr {v w : Vector Word 80} {t : Nat} (ht : 0 < t)
    (h : ∀ i, i < t → wordAt v i = wordAt w i) : scheduleWord v t = scheduleWord w t := by
  unfold scheduleWord
  rw [h (t - 3) (by omega), h (t - 8) (by omega), h (t - 14) (by omega), h (t - 16) (by omega)]

/-- The step that computes word `16 + n` writes no other. -/
theorem wordAt_expandUpTo_succ (w : Vector Word 80) (n : Nat) {i : Nat} (hi : i < 80) :
    wordAt (expandUpTo w (n + 1)) i =
      if i = 16 + n then scheduleWord (expandUpTo w n) (16 + n) else wordAt (expandUpTo w n) i :=
  wordAt_setWord _ _ _ _ hi

/-- A word in place after `n` steps is final: the later steps write above it. -/
theorem wordAt_expandUpTo_of_le (w : Vector Word 80) {n k i : Nat} (hnk : n ≤ k) (hi : i < 16 + n) (hlt : i < 80) :
    wordAt (expandUpTo w k) i = wordAt (expandUpTo w n) i := by
  induction k, hnk using Nat.le_induction with
  | base => rfl
  | succ k hnk ih => rw [wordAt_expandUpTo_succ _ _ hlt, if_neg (by omega), ih]

/-- R130: the first sixteen words of the schedule are the block's. -/
theorem wordAt_expand_of_lt (m : Vector Word 16) {t : Nat} (ht : t < 16) : wordAt (expand m) t = wordAt m t := by
  rw [expand, wordAt_expandUpTo_of_le (scheduleStart m) (Nat.zero_le 64) ht (by omega), expandUpTo, wordAt,
    scheduleStart, Vector.getElem?_append_left ht, ← wordAt]

/-- R131: word `t` was computed from words that the later steps left in place. -/
theorem wordAt_expand_of_ge (m : Vector Word 16) {t : Nat} (hge : 16 ≤ t) (hlt : t < 80) :
    wordAt (expand m) t = scheduleWord (expand m) t := by
  obtain ⟨n, rfl⟩ := Nat.exists_eq_add_of_le hge
  calc wordAt (expand m) (16 + n)
      = wordAt (expandUpTo (scheduleStart m) (n + 1)) (16 + n) :=
        wordAt_expandUpTo_of_le _ (by omega) (by omega) hlt
    _ = scheduleWord (expandUpTo (scheduleStart m) n) (16 + n) := by
        rw [wordAt_expandUpTo_succ _ _ hlt, if_pos rfl]
    _ = scheduleWord (expand m) (16 + n) :=
        scheduleWord_congr (by omega) fun i hi =>
          (wordAt_expandUpTo_of_le _ (by omega) hi (by omega)).symm

/-- Inside the store, the recurrence in the store's own elements. -/
theorem scheduleWord_eq_getElem (w : Vector Word 80) {t : Nat} (h : t < 80) :
    scheduleWord w t = rotl32 (w[t - 3] ^^^ w[t - 8] ^^^ w[t - 14] ^^^ w[t - 16]) 1 := by
  rw [scheduleWord, wordAt_eq_getElem w (t - 3), wordAt_eq_getElem w (t - 8), wordAt_eq_getElem w (t - 14),
    wordAt_eq_getElem w (t - 16)]

/-- Settles O29: each word is final once computed, so the finished schedule meets the recurrence it was built by. -/
theorem expansionRecurrence : Obligations.ExpansionRecurrence := by
  refine fun m => ⟨fun t => ?_, fun t hge hlt => ?_⟩
  · rw [← wordAt_eq_getElem, ← wordAt_eq_getElem, wordAt_expand_of_lt m t.isLt]
  · rw [← wordAt_eq_getElem, wordAt_expand_of_ge m hge hlt, scheduleWord_eq_getElem _ hlt]

/-! Linearity over XOR. -/

/-- A rotation moves each bit alone, and so does XOR. -/
theorem rotl32_xor (x y : Word) {n : Nat} (hn : n < 32) : rotl32 (x ^^^ y) n = rotl32 x n ^^^ rotl32 y n := by
  apply BitVec.eq_of_getLsbD_eq
  intro i hi
  simp only [BitVec.getLsbD_xor, getLsbD_rotl32 _ hn hi]

/-- One word of the recurrence is linear in the words it reads. -/
theorem scheduleWord_xor {x v w : Vector Word 80} {t : Nat} (ht : 0 < t)
    (h : ∀ i, i < t → wordAt x i = wordAt v i ^^^ wordAt w i) :
    scheduleWord x t = scheduleWord v t ^^^ scheduleWord w t := by
  unfold scheduleWord
  rw [h (t - 3) (by omega), h (t - 8) (by omega), h (t - 14) (by omega), h (t - 16) (by omega),
    ← rotl32_xor _ _ (by decide)]
  congr 1
  ac_rfl

/-- R133, by strong induction along the recurrence. -/
theorem wordAt_expand_xor {m m' x : Vector Word 16} (h : ∀ j, j < 16 → wordAt x j = wordAt m j ^^^ wordAt m' j)
    {t : Nat} (ht : t < 80) : wordAt (expand x) t = wordAt (expand m) t ^^^ wordAt (expand m') t := by
  induction t using Nat.strong_induction_on with
  | h t ih =>
    obtain hlt | hge := Nat.lt_or_ge t 16
    · simp only [wordAt_expand_of_lt _ hlt, h t hlt]
    · simp only [wordAt_expand_of_ge _ hge ht]
      exact scheduleWord_xor (by omega) fun i hi => ih i hi (by omega)

/-- R133: the zero block is the XOR of itself with itself, so each word of its schedule is a word XOR itself. -/
theorem wordAt_expand_zero {t : Nat} (ht : t < 80) : wordAt (expand (Vector.replicate 16 0#32)) t = 0 := by
  have hself : ∀ j, j < 16 → wordAt (Vector.replicate 16 0#32) j =
      wordAt (Vector.replicate 16 0#32) j ^^^ wordAt (Vector.replicate 16 0#32) j := by
    intro j hj
    simp [wordAt_eq_getElem _ _ hj]
  rw [wordAt_expand_xor hself ht, BitVec.xor_self]
  rfl

/-- Settles O30: the expansion is linear word by word, and a linear function is zero at zero. -/
theorem expansionIsLinear : Obligations.ExpansionIsLinear := by
  refine ⟨fun m m' x h t => ?_, fun t => ?_⟩
  · have hwords : ∀ j, j < 16 → wordAt x j = wordAt m j ^^^ wordAt m' j := fun j hj => by
      simpa only [wordAt_eq_getElem _ _ hj] using h ⟨j, hj⟩
    simpa only [wordAt_eq_getElem _ _ t.isLt] using wordAt_expand_xor hwords t.isLt
  · rw [← wordAt_eq_getElem, wordAt_expand_zero t.isLt]

/-! RDW. -/

theorem cw_encode_rdw (t : BitVec 7) : (encode (.rdw t)).cw = 0x6000 + t.setWidth 16 :=
  commandWord_eq_add 6 t

/-- RDW ignores the data word: every one decodes to the same instruction. -/
theorem decode_rdw_inRange {t : BitVec 7} (h : t.toNat < 80) (d : Word) :
    decode ⟨0x6000 + t.setWidth 16, d⟩ = .legal (.rdw t) := by
  rw [← cw_encode_rdw]
  exact decode_commandWord (op := 6) (by decide) h d

/-- In range RDW puts one schedule word in the response slot. -/
theorem exec_rdw_inRange {t : BitVec 7} (h : t.toNat < 80) (s : State) :
    exec (.rdw t) s = .next { s with rspFull := true, rspData := s.W[t.toNat] } := by
  rw [← wordAt_eq_getElem s.W t.toNat h]
  exact execRdw_inRange t s h

/-- The one word RDW may find undefined is the schedule, which has one validity bit (R37, R210). -/
theorem undefinedRead_rdw_inRange {t : BitVec 7} (h : t.toNat < 80) (s : State) :
    undefinedRead (.rdw t) s = if s.wDef then none else some .schedule := by
  cases hdef : s.wDef <;> simp [undefinedRead, indexOperand, h, hdef]

/-- R210: the checked machine faults on a read of a schedule that no PROC has written. -/
theorem execStrict_rdw_inRange {t : BitVec 7} (h : t.toNat < 80) (s : State) :
    execStrict (.rdw t) s = if s.wDef then exec (.rdw t) s else .fault (.undefinedRead .schedule) := by
  rw [execStrict, undefinedRead_rdw_inRange h]
  cases s.wDef <;> rfl

/-- The index 80 is the first that RDW does not take (R201). -/
theorem execRdw_outOfRange {t : BitVec 7} (h : 80 ≤ t.toNat) (s : State) :
    execRdw t s = .next (illegalCommand (0x6000 + t.setWidth 16) .badIndex s) := by
  have hlimit : indexLimit (opField (encode (.rdw t)).cw) ≤ t.toNat := by simpa [encode, indexLimit] using h
  rw [execRdw, indexed_outOfRange _ _ _ _ hlimit, cw_encode_rdw]

/-- RDW is a read opcode, so its illegal words get a response (R204). -/
theorem isReadOp_rdw (t : BitVec 7) : isReadOp (opField (0x6000 + t.setWidth 16)) = true := by
  rw [← cw_encode_rdw, encode, opField_commandWord]
  rfl

/-- Settles O18: in range RDW responds with the schedule word, on the checked machine where `Wdef` is set; the rest are
the illegal words of opcode 6, which respond 0. -/
theorem rdwRespondsScheduleWord : Obligations.RdwRespondsScheduleWord := by
  refine ⟨illegalOutside_indexLimit (op := 6) (by decide), fun t s => ⟨cw_encode_rdw t, fun ht => ?_,
    fun ht => ⟨execRdw_outOfRange ht s, ?_, ?_⟩⟩⟩
  · refine ⟨decode_rdw_inRange ht, exec_rdw_inRange ht s, ?_⟩
    rw [execStrict_rdw_inRange ht, exec_rdw_inRange ht]
  · rw [illegalCommand_rspFull, isReadOp_rdw, Bool.true_or]
  · rw [illegalCommand_rspData, if_pos (isReadOp_rdw t)]

end Sys2Proof.Machine
end

section
/-! Proofs about the compression engine (43_compression_engine.md): the round functions bit by bit (R150 to R152), their
selection by the range of the round (R153, R154), and one round (R155 to R157). -/

namespace Sys2Proof.Machine

open Sys2Proof

/-! The round functions, bit by bit. -/

/-- R150: a bit of `b` selects between the bits of `c` and `d`. -/
theorem getLsbD_choose (b c d : Word) {i : Nat} (hi : i < 32) :
    (choose b c d).getLsbD i = if b.getLsbD i then c.getLsbD i else d.getLsbD i := by
  rw [choose, BitVec.getLsbD_or, BitVec.getLsbD_and, BitVec.getLsbD_and, BitVec.getLsbD_not]
  cases b.getLsbD i <;> simp [hi]

theorem getLsbD_parity (b c d : Word) (i : Nat) :
    (parity b c d).getLsbD i = ((b.getLsbD i ^^ c.getLsbD i) ^^ d.getLsbD i) := by
  rw [parity, BitVec.getLsbD_xor, BitVec.getLsbD_xor]

/-- The majority of three bits counts them: the eight cases of R152. -/
theorem majorityBit_eq_decide (x y z : Bool) :
    ((x && y || x && z) || y && z) = decide (2 ≤ x.toNat + y.toNat + z.toNat) := by
  revert x y z
  decide

theorem getLsbD_majority (b c d : Word) (i : Nat) :
    (majority b c d).getLsbD i = decide (2 ≤ (b.getLsbD i).toNat + (c.getLsbD i).toNat + (d.getLsbD i).toNat) := by
  simp only [majority, BitVec.getLsbD_or, BitVec.getLsbD_and]
  exact majorityBit_eq_decide _ _ _

/-! The equal forms of choose and majority. -/

/-- R150: the two terms of choose never both have a 1 in one bit. -/
theorem choose_terms_disjoint (b c d : Word) : (b &&& c) &&& (~~~b &&& d) = 0#32 := by
  apply BitVec.eq_of_getLsbD_eq
  intro i hi
  simp only [BitVec.getLsbD_and, BitVec.getLsbD_not, BitVec.getLsbD_zero]
  cases b.getLsbD i <;> simp

theorem choose_eq_add (b c d : Word) : choose b c d = (b &&& c) + (~~~b &&& d) :=
  (BitVec.add_eq_or_of_and_eq_zero _ _ (choose_terms_disjoint b c d)).symm

theorem choose_eq_xor (b c d : Word) : choose b c d = (b &&& c) ^^^ (~~~b &&& d) := by
  apply BitVec.eq_of_getLsbD_eq
  intro i hi
  rw [getLsbD_choose b c d hi]
  simp only [BitVec.getLsbD_xor, BitVec.getLsbD_and, BitVec.getLsbD_not]
  cases b.getLsbD i <;> simp [hi]

/-- R152: where two of the three terms have a 1 in one bit, so has the third. -/
theorem majority_eq_xor (b c d : Word) : majority b c d = (b &&& c) ^^^ (b &&& d) ^^^ (c &&& d) := by
  apply BitVec.eq_of_getLsbD_eq
  intro i _
  simp only [majority, BitVec.getLsbD_or, BitVec.getLsbD_xor, BitVec.getLsbD_and]
  cases b.getLsbD i <;> cases c.getLsbD i <;> simp

/-- R152: `d` taken out of the two terms that hold it. -/
theorem majority_eq_factored (b c d : Word) : majority b c d = (b &&& c) ||| (d &&& (b ||| c)) := by
  rw [majority, BitVec.or_assoc, ← BitVec.and_or_distrib_right, BitVec.and_comm d]

/-- Settles O26: the formulas are the definitions, and every equal form is a fact about one bit. -/
theorem roundFunctionsBitwise : Obligations.RoundFunctionsBitwise := by
  intro b c d
  exact ⟨rfl, choose_eq_xor b c d, choose_eq_add b c d, rfl, rfl, majority_eq_xor b c d, majority_eq_factored b c d,
    fun i hi => ⟨getLsbD_choose b c d hi, getLsbD_parity b c d i, getLsbD_majority b c d i⟩⟩

/-! The selection by ranges (R153, R154): the quotient by 20 names the range. -/

/-- Rounds of one range use the same function and the same constant. -/
theorem round_selection_of_div_eq {t u : Nat} (h : t / 20 = u / 20) (b c d : Word) :
    roundFunction t b c d = roundFunction u b c d ∧ roundConstant t = roundConstant u := by
  unfold roundFunction roundConstant
  rw [h]
  exact ⟨rfl, rfl⟩

/-- Settles O27: every round selects what the first round of its range selects, and there the tables are read off. -/
theorem roundSelectionByRange : Obligations.RoundSelectionByRange := by
  intro t _ b c d
  refine ⟨fun _ => ?_, fun _ _ => ?_, fun _ _ => ?_, fun _ => ?_⟩
  · exact round_selection_of_div_eq (u := 0) (by omega) b c d
  · exact round_selection_of_div_eq (u := 20) (by omega) b c d
  · exact round_selection_of_div_eq (u := 40) (by omega) b c d
  · exact round_selection_of_div_eq (u := 60) (by omega) b c d

/-! One round. -/

/-- R156: each assignment of the source's sequence reads a register not yet written in the round. -/
theorem roundSequential_eq_roundStep (t : Nat) (x : Work) (w : Word) : roundSequential t x w = roundStep t x w := rfl

/-- Settles O28: the sum and the four moves are the definition of the round, and the sequence agrees with it. -/
theorem roundIsSimultaneousUpdate : Obligations.RoundIsSimultaneousUpdate := by
  intro t a b c d e w _
  exact ⟨rfl, roundSequential_eq_roundStep t ⟨a, b, c, d, e⟩ w⟩

end Sys2Proof.Machine
end

section
/-! Proofs about state access (44_state_access.md): NOP, INIT, WRH, RDH, RDST, CLRERR. The word of a command without an
operand is its opcode's word of index 0; the two indexed commands share what their index does to the word. -/

namespace Sys2Proof.Machine

open Sys2Proof

/-! The commands without an operand: each ignores the data word and reads one row of the opcode map. -/

/-- The word of index 0 is legal for every defined opcode, since every limit is positive (R201). -/
theorem decode_commandWord_zero {op : BitVec 4} (hop : op.toNat < 9) (data : Word) :
    decode ⟨commandWord op 0, data⟩ = decodeOp op 0 data := by
  have hpos : 0 < indexLimit op := by
    unfold indexLimit
    split <;> decide
  exact decode_commandWord (idx := 0) hop hpos data

/-- Settles O13: NOP answers the state it was given; every other word of opcode 0 is illegal. -/
theorem nopChangesNothing : Obligations.NopChangesNothing :=
  ⟨illegalOutside_indexLimit (op := 0) (by decide), rfl, decode_commandWord_zero (op := 0) (by decide), fun _ => rfl⟩

/-- Settles O14: INIT copies the initial-value ROM into `H` and sets its validity bits; every other word of opcode 1 is
illegal. -/
theorem initLoadsInitialValues : Obligations.InitLoadsInitialValues := by
  refine ⟨illegalOutside_indexLimit (op := 1) (by decide), rfl, decode_commandWord_zero (op := 1) (by decide),
    fun s => ⟨{ s with H := ivRom, hDef := Vector.replicate 5 true }, rfl, rfl, rfl, rfl, rfl, rfl, fun i => ?_, rfl⟩⟩
  exact Vector.getElem_replicate i.isLt

/-- Settles O19: RDST places STATUS in the response slot and leaves STATUS itself alone; every other word of opcode 7 is
illegal. -/
theorem rdstRespondsStatus : Obligations.RdstRespondsStatus :=
  ⟨illegalOutside_indexLimit (op := 7) (by decide), rfl, decode_commandWord_zero (op := 7) (by decide), fun _ => rfl⟩

/-- Settles O20: CLRERR clears STATUS only; every other word of opcode 8 is illegal, so it records and does not clear. -/
theorem clrerrClearsStatus : Obligations.ClrerrClearsStatus :=
  ⟨illegalOutside_indexLimit (op := 8) (by decide), rfl, decode_commandWord_zero (op := 8) (by decide), fun _ => rfl⟩

/-! The indexed commands, for any opcode: the word as the sum of opcode and index. -/

/-- `decode_commandWord`, with the word written as a sum. -/
theorem decode_wordSum {op : BitVec 4} {idx : BitVec 7} (hop : op.toNat < 9) (hidx : idx.toNat < indexLimit op)
    (data : Word) :
    decode ⟨BitVec.ofNat 16 (op.toNat * 4096) + idx.setWidth 16, data⟩ = decodeOp op idx data := by
  rw [← commandWord_eq_add]
  exact decode_commandWord hop hidx data

/-- From its opcode's limit up an indexed instruction is the illegal-command action for its own word (R201). -/
theorem indexed_wordSum_outOfRange {op : BitVec 4} {idx : BitVec 7} {i : Instr}
    (hword : (encode i).cw = commandWord op idx) (hidx : indexLimit op ≤ idx.toNat) (body : Nat → State → State)
    (s : State) : indexed i idx body s =
      .next (illegalCommand (BitVec.ofNat 16 (op.toNat * 4096) + idx.setWidth 16) .badIndex s) := by
  have hlimit : indexLimit (opField (encode i).cw) ≤ idx.toNat := by rwa [hword, opField_commandWord]
  rw [indexed_outOfRange i idx body s hlimit, hword, commandWord_eq_add]

/-! WRH. -/

/-- The index 5 is the first that WRH does not take (R201). -/
theorem execWrh_outOfRange {i : BitVec 7} (h : 5 ≤ i.toNat) (d : Word) (s : State) :
    execWrh i d s = .next (illegalCommand (0x4000 + i.setWidth 16) .badIndex s) :=
  indexed_wordSum_outOfRange (op := 4) (i := .wrh i d) rfl h _ s

/-- Settles O16: in range WRH is the shared digest write, which touches `H` and its validity bits only; the rest are the
illegal words of opcode 4. -/
theorem wrhWritesOneDigestRegister : Obligations.WrhWritesOneDigestRegister := by
  refine ⟨illegalOutside_indexLimit (op := 4) (by decide), fun i d s =>
    ⟨congrArg (Command.mk · d) (commandWord_eq_add 4 i), fun hi => ?_,
      fun hi => execWrh_outOfRange hi d s⟩⟩
  have hrange : i.toNat < 5 := Nat.lt_succ_of_le hi
  exact ⟨decode_wordSum (op := 4) (by decide) hrange d, writeDigest i.toNat d s, execWrh_inRange i d s hrange,
    fun k => getElem_setWord s.H i.toNat k.val d k.isLt, fun k => getElem_setFlag s.hDef i.toNat k.val k.isLt, rfl⟩

/-! RDH. -/

/-- In range RDH puts one digest register in the response slot. -/
theorem exec_rdh_inRange {i : BitVec 7} (h : i.toNat < 5) (s : State) :
    exec (.rdh i) s = .next { s with rspFull := true, rspData := s.H[i.toNat] } := by
  rw [← wordAt_eq_getElem s.H i.toNat h]
  exact execRdh_inRange i s h

/-- The one word RDH may find undefined is the register it reads (R37, R210). -/
theorem undefinedRead_rdh_inRange {i : BitVec 7} (h : i.toNat < 5) (s : State) :
    undefinedRead (.rdh i) s = if s.hDef[i.toNat] then none else some (.digest i.toNat) := by
  rw [← flagAt_eq_getElem s.hDef i.toNat h]
  cases hdef : flagAt s.hDef i.toNat <;> simp [undefinedRead, indexOperand, h, hdef]

/-- R210: the checked machine faults on a read of a digest register that nothing has written. -/
theorem execStrict_rdh_inRange {i : BitVec 7} (h : i.toNat < 5) (s : State) :
    execStrict (.rdh i) s =
      if s.hDef[i.toNat] then exec (.rdh i) s else .fault (.undefinedRead (.digest i.toNat)) := by
  rw [execStrict, undefinedRead_rdh_inRange h]
  cases s.hDef[i.toNat] <;> rfl

/-- The index 5 is the first that RDH does not take (R201). -/
theorem execRdh_outOfRange {i : BitVec 7} (h : 5 ≤ i.toNat) (s : State) :
    execRdh i s = .next (illegalCommand (0x5000 + i.setWidth 16) .badIndex s) :=
  indexed_wordSum_outOfRange (op := 5) (i := .rdh i) rfl h _ s

/-- RDH is a read opcode, so its illegal words get a response (R204). -/
theorem isReadOp_rdh (i : BitVec 7) : isReadOp (opField (0x5000 + i.setWidth 16)) = true := by
  have hop : opField (0x5000 + i.setWidth 16) = 5 := by
    rw [← opField_commandWord 5 i, commandWord_eq_add]
    rfl
  rw [hop]
  rfl

/-- Settles O17: in range RDH responds with the digest register, on the checked machine where its validity bit is set;
the rest are the illegal words of opcode 5, which respond 0. -/
theorem rdhRespondsDigestRegister : Obligations.RdhRespondsDigestRegister := by
  refine ⟨illegalOutside_indexLimit (op := 5) (by decide), fun i s => ⟨commandWord_eq_add 5 i, fun hi => ?_,
    fun hi => ⟨execRdh_outOfRange hi s, ?_, ?_⟩⟩⟩
  · refine ⟨decode_wordSum (op := 5) (by decide) hi, exec_rdh_inRange hi s, ?_⟩
    rw [execStrict_rdh_inRange hi, exec_rdh_inRange hi]
  · rw [illegalCommand_rspFull, isReadOp_rdh, Bool.true_or]
  · rw [illegalCommand_rspData, if_pos (isReadOp_rdh i)]

end Sys2Proof.Machine
end

section
/-! Proofs about exceptions (60_exceptions.md): the legality check and its causes (R201, R202), the illegal-command
action (R203, R204), the fault of the checked machine (R210), and the IDLE core that is offered no command (R217). -/

namespace Sys2Proof.Machine

open Sys2Proof

/-! The legality check: each cause as a condition on the three fields, where no earlier cause applies. -/

theorem illegalCause_eq_reservedOp_iff (cw : BitVec 16) :
    illegalCause cw = some .reservedOp ↔ 9 ≤ (opField cw).toNat := by
  unfold illegalCause
  split_ifs with hop <;> simp [hop]

theorem illegalCause_eq_reservedBits_iff (cw : BitVec 16) :
    illegalCause cw = some .reservedBits ↔ (opField cw).toNat ≤ 8 ∧ rsvField cw ≠ 0 := by
  refine ⟨fun h => ?_, fun ⟨hop, hrsv⟩ => illegalCause_reservedBits (Nat.lt_succ_of_le hop) hrsv⟩
  unfold illegalCause at h
  split_ifs at h with hop hrsv <;> cases h
  exact ⟨Nat.le_of_lt_succ (Nat.lt_of_not_le hop), hrsv⟩

theorem illegalCause_eq_badIndex_iff (cw : BitVec 16) :
    illegalCause cw = some .badIndex ↔
      (opField cw).toNat ≤ 8 ∧ rsvField cw = 0 ∧ indexLimit (opField cw) ≤ (idxField cw).toNat := by
  refine ⟨fun h => ?_, fun ⟨hop, hrsv, hidx⟩ => illegalCause_badIndex (Nat.lt_succ_of_le hop) hrsv hidx⟩
  unfold illegalCause at h
  split_ifs at h with hop hrsv hidx <;> cases h
  exact ⟨Nat.le_of_lt_succ (Nat.lt_of_not_le hop), not_not.mp hrsv, hidx⟩

/-- The decoder reports the cause the legality check finds, and no other. -/
theorem decode_eq_illegal_iff {c : Command} {k : Cause} : decode c = .illegal k ↔ illegalCause c.cw = some k :=
  ⟨illegalCause_of_decode, fun h => by rw [decode, h]⟩

/-- Every word without a cause has a row in the opcode map (R77). -/
theorem exists_decode_eq_legal_iff {c : Command} : (∃ i, decode c = .legal i) ↔ illegalCause c.cw = none := by
  refine ⟨fun ⟨_, h⟩ => (decode_eq_legal h).1, fun h => ?_⟩
  cases hdec : decode c with
  | legal i => exact ⟨i, rfl⟩
  | illegal k => cases h.symm.trans (decode_eq_illegal_iff.mp hdec)

theorem performCommand_of_legal {c : Command} {i : Instr} (h : decode c = .legal i) (s : State) :
    performCommand c s = exec i s := by
  rw [performCommand, h]

/-- `limit(OP)` of R201 as a chain of comparisons. -/
theorem indexLimit_eq_ite (op : BitVec 4) :
    indexLimit op =
      if op.toNat = 2 then 16 else if op.toNat = 4 ∨ op.toNat = 5 then 5 else if op.toNat = 6 then 80 else 1 := by
  revert op
  decide

/-- Settles O3: the decoder reports what the legality check finds, cause by cause, and the fields are digits of the
word. -/
theorem illegalCauseByFields : Obligations.IllegalCauseByFields := by
  intro cw data
  dsimp only
  simp only [← opField_toNat, ← idxField_toNat, ne_eq, ← rsvField_eq_zero_iff, ← indexLimit_eq_ite]
  refine ⟨decode_eq_illegal_iff.trans (illegalCause_eq_reservedOp_iff cw),
    decode_eq_illegal_iff.trans (illegalCause_eq_reservedBits_iff cw),
    decode_eq_illegal_iff.trans (illegalCause_eq_badIndex_iff cw),
    exists_decode_eq_legal_iff.trans ?_, fun i s h => performCommand_of_legal h s,
    fun k s h => performCommand_of_illegalCause (illegalCause_of_decode h) data s⟩
  rw [illegalCause_eq_none_iff, Nat.lt_succ_iff]

/-! The illegal-command action. -/

/-- RDH, RDW and RDST are the opcodes 5, 6 and 7 (R204). -/
theorem isReadOp_opField_iff (cw : BitVec 16) :
    isReadOp (opField cw) = true ↔ cw.toNat / 4096 = 5 ∨ cw.toNat / 4096 = 6 ∨ cw.toNat / 4096 = 7 := by
  rw [← opField_toNat]
  generalize opField cw = op
  revert op
  decide

/-- An illegal command writes STATUS and the response slot only (R203, R204, R206). -/
theorem illegalCommand_frame (cw : BitVec 16) (k : Cause) (s : State) :
    illegalCommand cw k s =
      { s with
        status := (illegalCommand cw k s).status
        rspFull := (illegalCommand cw k s).rspFull
        rspData := (illegalCommand cw k s).rspData } := by
  unfold illegalCommand recordIllegal
  split <;> split <;> rfl

/-- Settles O9: STATUS by `ERR`, the response slot by the opcode, and the frame of the action. -/
theorem illegalCommandAction : Obligations.IllegalCommandAction := by
  intro c k s hdec
  refine ⟨illegalCommand c.cw k s, performCommand_of_illegalCause (illegalCause_of_decode hdec) c.data s,
    fun herr => ?_, fun herr => ?_, fun hread => ?_, fun hread => ?_, illegalCommand_frame c.cw k s⟩
  · rw [illegalCommand_status, statusErr, herr]
    cases k <;> rfl
  · rw [illegalCommand_status, statusErr, if_pos herr]
  · simp [(isReadOp_opField_iff c.cw).mpr hread]
  · rw [← isReadOp_opField_iff, Bool.not_eq_true] at hread
    simp [hread]

/-! The fault of the checked machine. -/

/-- The search below `n` finds no index exactly when every bit below `n` is set (R37). -/
theorem firstUndefined_eq_none_iff {m : Nat} (v : Vector Bool m) (n : Nat) :
    firstUndefined v n = none ↔ ∀ i, i < n → flagAt v i = true := by
  simp [firstUndefined]

/-- Searched over its whole length, an array of validity bits has an undefined word where a bit is clear. -/
theorem firstUndefined_length_ne_none_iff {n : Nat} (v : Vector Bool n) :
    firstUndefined v n ≠ none ↔ ∃ k : Fin n, v[k.val] = false := by
  rw [ne_eq, firstUndefined_eq_none_iff, not_forall]
  constructor
  · rintro ⟨k, hclear⟩
    obtain ⟨hk, hflag⟩ := Classical.not_imp.mp hclear
    exact ⟨⟨k, hk⟩, by rwa [flagAt_eq_getElem v k hk, Bool.not_eq_true] at hflag⟩
  · rintro ⟨k, hclear⟩
    exact ⟨k, fun hall => by simpa [flagAt_eq_getElem v k k.isLt, hclear] using hall k.isLt⟩

/-- PROC reads all of `H` and all of `M` (R162, R210). -/
theorem undefinedRead_proc_ne_none_iff (s : State) :
    undefinedRead .proc s ≠ none ↔ (∃ k : Fin 5, s.hDef[k.val] = false) ∨ ∃ j : Fin 16, s.mDef[j.val] = false := by
  rw [← firstUndefined_length_ne_none_iff, ← firstUndefined_length_ne_none_iff, undefinedRead]
  cases firstUndefined s.hDef 5 <;> simp

/-- RDH reads one digest register (R210). -/
theorem undefinedRead_rdh_ne_none_iff {i : BitVec 7} (h : i.toNat < 5) (s : State) :
    undefinedRead (.rdh i) s ≠ none ↔ s.hDef[i.toNat] = false := by
  rw [undefinedRead_rdh_inRange h]
  cases s.hDef[i.toNat] <;> simp

/-- RDW reads the schedule, which is valid as a whole or not at all (R37, R210). -/
theorem undefinedRead_rdw_ne_none_iff {t : BitVec 7} (h : t.toNat < 80) (s : State) :
    undefinedRead (.rdw t) s ≠ none ↔ s.wDef = false := by
  rw [undefinedRead_rdw_inRange h]
  cases s.wDef <;> simp

/-- The register a well-formed RDH names, by its number. -/
theorem exists_rdh_eq_iff {i : BitVec 7} (h : i.toNat < 5) (p : Fin 5 → Prop) :
    (∃ k : Fin 5, Instr.rdh i = .rdh (BitVec.ofNat 7 k.val) ∧ p k) ↔ p ⟨i.toNat, h⟩ := by
  constructor
  · rintro ⟨k, hinstr, hp⟩
    obtain rfl : i = BitVec.ofNat 7 k.val := Instr.rdh.inj hinstr
    have hk : (BitVec.ofNat 7 k.val).toNat = k.val := by
      rw [BitVec.toNat_ofNat]
      omega
    simpa only [hk] using hp
  · exact fun hp => ⟨⟨i.toNat, h⟩, by simp, hp⟩

/-- The meanings themselves never fault, so a fault of the checked machine is an undefined read. -/
theorem exists_execStrict_fault_iff (i : Instr) (s : State) :
    (∃ r, execStrict i s = .fault (.undefinedRead r)) ↔ undefinedRead i s ≠ none := by
  obtain ⟨t, ht⟩ := exec_answers i s
  cases hread : undefinedRead i s <;> simp [execStrict, hread, ht]

/-- Which well-formed instructions read a word that nothing has written (R210). -/
theorem undefinedRead_ne_none_iff {i : Instr} (hwf : i.wellFormed = true) (s : State) :
    undefinedRead i s ≠ none ↔
      (∃ k : Fin 5, i = .rdh (BitVec.ofNat 7 k.val) ∧ s.hDef[k.val] = false) ∨
      ((∃ t, i = .rdw t) ∧ s.wDef = false) ∨
      (i = .proc ∧ ((∃ k : Fin 5, s.hDef[k.val] = false) ∨ ∃ j : Fin 16, s.mDef[j.val] = false)) := by
  cases i with
  | proc => simpa using undefinedRead_proc_ne_none_iff s
  | rdh i =>
    have hi : i.toNat < 5 := Nat.lt_succ_of_le (of_decide_eq_true hwf)
    rw [exists_rdh_eq_iff hi (s.hDef[·.val] = false), undefinedRead_rdh_ne_none_iff hi]
    simp
  | rdw t =>
    have ht : t.toNat < 80 := Nat.lt_succ_of_le (of_decide_eq_true hwf)
    simpa using undefinedRead_rdw_ne_none_iff ht s
  | nop | init | wrw | wrh | rdst | clrerr => simp [undefinedRead]

/-- A fault of the first step is the outcome of the run, however many steps were to follow. -/
theorem run_succ_of_fault {M : Host.Core} {s : M.State} {r : M.Fault} (h : M.step s = .fault r) (n : Nat) :
    M.run (n + 1) s = .fault r := by
  rw [Host.Core.run, h]

/-- Settles O45: the checked machine faults where `undefinedRead` names a word, and else runs the instruction, which
always answers. -/
theorem undefinedReadFaults : Obligations.UndefinedReadFaults := by
  intro i s hwf
  refine ⟨(exists_execStrict_fault_iff i s).trans (undefinedRead_ne_none_iff hwf s), fun hnofault => ?_,
    exec_answers i s, fun r n hfault => run_succ_of_fault (M := strictCore) hfault n⟩
  refine execStrict_of_defined (by_contra fun hread => ?_)
  obtain ⟨r, hr⟩ := (exists_execStrict_fault_iff i s).mpr hread
  exact hnofault r hr

/-! The IDLE core without an offered command. -/

/-- A response that is not pending, or that the host does not take, stays as it is (R242). -/
theorem takeResponse_eq_self {ready : Bool} {s : State} (h : s.rspFull = false ∨ ready = false) :
    takeResponse ready s = s := by
  obtain h | h := h <;> simp [takeResponse, h]

/-- Taking a response frees the slot and hands its word to the host (R242). -/
theorem takeResponse_of_pending {s : State} (h : s.rspFull = true) :
    takeResponse true s = { s with rspFull := false, taken := s.taken ++ [s.rspData] } := by
  simp [takeResponse, h]

/-- R217: with no command offered, all an IDLE core can do at an edge with `rst_n = 1` is deliver a response, whatever
an accepted command would do. -/
theorem edge_idle_of_noOffer {perform : Command → State → Host.Outcome State Fault Refusal} {s : State}
    (hidle : s.phase = .idle) (hrst : (nextDrive s).rstN = true) (hoffer : offeredCommand (nextDrive s) s = none) :
    edge perform s = .next (takeResponse (nextDrive s).rspReady { s with host := s.host.tail }) := by
  have htick : engineTick { s with host := s.host.tail } = { s with host := s.host.tail } := engineTick_idle hidle
  rw [edge_wait hrst (.inl hoffer), waitEdge, htick]

/-- With nothing driven no command is offered and no response taken, so a step answers the same state. -/
theorem step_idle_of_host_nil {s : State} (hidle : s.phase = .idle) (hhost : s.host = []) : step s = .next s := by
  have hdrive : nextDrive s = ⟨true, false, false⟩ := by rw [nextDrive, hhost]; rfl
  have hheld : { s with host := s.host.tail } = s := by rw [hhost, List.tail_nil, ← hhost]
  rw [step, edge_idle_of_noOffer hidle (by rw [hdrive]) (by rw [hdrive]; rfl), hdrive, hheld,
    takeResponse_eq_self (.inr rfl)]

/-- A state that a step answers itself is the outcome of every run from it. -/
theorem run_of_step_eq_self {M : Host.Core} {s : M.State} (h : M.step s = .next s) (n : Nat) : M.run n s = .next s := by
  induction n with
  | zero => rfl
  | succ n ih => rw [Host.Core.run, h]; exact ih

/-- Settles O42: an edge without an offered command delivers at most a response, at the step and at the clock edge
alike. -/
theorem idleCoreHoldsState : Obligations.IdleCoreHoldsState := by
  intro s hidle
  refine ⟨fun hhost n => run_of_step_eq_self (M := core) (step_idle_of_host_nil hidle hhost) n,
    fun p rest hhost hrst hnone => ?_⟩
  have hdrive : nextDrive s = p := by rw [nextDrive, hhost]; rfl
  have hedge (perform : Command → State → Host.Outcome State Fault Refusal) :
      edge perform s = .next (takeResponse p.rspReady { s with host := rest }) := by
    subst hdrive
    rw [edge_idle_of_noOffer hidle hrst (offeredCommand_eq_none.mpr hnone), hhost, List.tail_cons]
  refine ⟨(hedge performCycle).trans (hedge performCommand).symm, fun hkept => ?_, fun hfull hready => ?_⟩
  · rw [step, hedge, takeResponse_eq_self (s := { s with host := rest }) hkept]
  · rw [step, hedge, hready, takeResponse_of_pending (s := { s with host := rest }) hfull]
    exact ⟨_, rfl, rfl⟩

end Sys2Proof.Machine
end

section
/-! Proofs about the interface while a PROC runs (70_reset_and_hazards.md R240 to R242): a BUSY engine with no response
pending accepts nothing and takes nothing, so the clock edges after the accept edge are the round cycles of R167. -/

namespace Sys2Proof.Machine

open Sys2Proof

/-! The state after `n` round cycles. -/

/-- The rounds write the schedule store, the working registers, the window, the counter and `folding` only (R167). -/
theorem roundCycles_frame (s : State) (n : Nat) :
    roundCycles s n =
      { s with
        W := (roundCycles s n).W
        work := (roundCycles s n).work
        win := (roundCycles s n).win
        t := (roundCycles s n).t
        folding := (roundCycles s n).folding } := by
  induction n with
  | zero => rfl
  | succ n ih =>
    rw [roundCycles, ih]
    rfl

@[simp] theorem roundCycles_H (s : State) (n : Nat) : (roundCycles s n).H = s.H := by rw [roundCycles_frame]
@[simp] theorem roundCycles_M (s : State) (n : Nat) : (roundCycles s n).M = s.M := by rw [roundCycles_frame]
@[simp] theorem roundCycles_status (s : State) (n : Nat) : (roundCycles s n).status = s.status := by
  rw [roundCycles_frame]
@[simp] theorem roundCycles_rspFull (s : State) (n : Nat) : (roundCycles s n).rspFull = s.rspFull := by
  rw [roundCycles_frame]
@[simp] theorem roundCycles_phase (s : State) (n : Nat) : (roundCycles s n).phase = s.phase := by rw [roundCycles_frame]
@[simp] theorem roundCycles_cmds (s : State) (n : Nat) : (roundCycles s n).cmds = s.cmds := by rw [roundCycles_frame]

/-- After an accepted PROC the counter is the number of rounds done; after round 79 the fold cycle is next (R166, R167,
R169; log entry 5). -/
theorem roundCycles_acceptProc_t_folding (s : State) {n : Nat} (hn : n ≤ 80) :
    (n < 80 → (roundCycles (acceptProc s) n).t.toNat = n) ∧
      (roundCycles (acceptProc s) n).folding = decide (n = 80) := by
  induction n with
  | zero => exact ⟨fun _ => rfl, rfl⟩
  | succ n ih =>
    have ht : (roundCycles (acceptProc s) n).t.toNat = n := (ih (Nat.le_of_succ_le hn)).1 hn
    refine ⟨fun hlt => ?_, ?_⟩
    · rw [roundCycles, roundCycle_t, nextCount_toNat, ht, if_pos (Nat.succ_lt_succ_iff.mp hlt)]
    · rw [roundCycles, roundCycle_folding, ht, decide_eq_decide]
      omega

/-- R25: the counter is in `0..79` from the accept edge to the fold cycle. -/
theorem roundCycles_acceptProc_t_le (s : State) (n : Nat) : (roundCycles (acceptProc s) n).t.toNat ≤ 79 := by
  cases n with
  | zero => exact Nat.zero_le 79
  | succ n => exact nextCount_le _

/-- A BUSY engine runs round `n` while there is one (R167). -/
theorem engineCycle_roundCycles_acceptProc (s : State) {n : Nat} (hn : n < 80) :
    engineCycle (roundCycles (acceptProc s) n) = roundCycles (acceptProc s) (n + 1) := by
  obtain ⟨ht, hfold⟩ := roundCycles_acceptProc_t_folding s hn.le
  have hround : (roundCycles (acceptProc s) n).folding = false ∧ (roundCycles (acceptProc s) n).t.toNat < 80 :=
    ⟨hfold.trans (decide_eq_false hn.ne), (ht hn).trans_lt hn⟩
  rw [engineCycle, if_pos hround, roundCycles]

/-! The clock edges. -/

/-- The engine does not look at what the host drives. -/
theorem engineCycle_withHost (s : State) (l : List HostDrive) :
    engineCycle { s with host := l } = { engineCycle s with host := l } := by
  by_cases hround : s.folding = false ∧ s.t.toNat < 80
  · rw [engineCycle, engineCycle, if_pos hround, if_pos hround]
    rfl
  · rw [engineCycle, engineCycle, if_neg hround, if_neg hround]
    rfl

/-- R240, R242: `cmd_ready` is 0 while the engine is BUSY, reset or not. -/
theorem cmdReady_of_busy {s : State} (hbusy : s.phase = .busy) (rstN : Bool) : cmdReady rstN s = false := by
  simp [cmdReady, hbusy]

/-- R240: whatever the host offers and on whichever level it holds `rsp_ready`, a clock edge with `rst_n = 1` of a BUSY
engine without a pending response is one cycle of the engine. -/
theorem clock_of_busy {s : State} (hbusy : s.phase = .busy) (hfull : s.rspFull = false)
    (hrst : (nextDrive s).rstN = true) : clock s = .next (engineCycle { s with host := s.host.tail }) := by
  have htick : engineTick { s with host := s.host.tail } = engineCycle { s with host := s.host.tail } :=
    engineTick_busy hbusy
  have hslot : (engineCycle { s with host := s.host.tail }).rspFull = false := (engineCycle_rspFull _).trans hfull
  rw [clock, edge_wait hrst (.inr (cmdReady_of_busy hbusy true)), waitEdge, htick, takeResponse_eq_self (.inl hslot)]

/-- The clock edge that accepts a PROC only starts the engine (R166). -/
theorem clock_acceptProc {s : State} {p : HostDrive} {rest : List HostDrive} {c : Command} {crest : List Command}
    (hhost : s.host = p :: rest) (hvalid : p.cmdValid = true) (hcmds : s.cmds = c :: crest)
    (hready : cmdReady p.rstN s = true) (hproc : decode c = .legal .proc) :
    clock s = .next (acceptProc { s with host := rest, cmds := crest }) := by
  rw [clock, edge_accept hhost hvalid hcmds hready, performCycle, hproc]

/-- The level of `rst_n` at the edge after `n` others, read off the list; past its end the host drives `rst_n = 1` (log
entry 8). -/
theorem nextDrive_drop_rstN {s : State} {l : List HostDrive} {n : Nat} (hhost : s.host = l.drop n)
    (hrst : ∀ q ∈ l.take (n + 1), q.rstN = true) : (nextDrive s).rstN = true := by
  rw [nextDrive, hhost, List.headD_eq_head?_getD, List.head?_drop]
  obtain hlt | hge := Nat.lt_or_ge n l.length
  · rw [List.getElem?_eq_getElem hlt]
    exact hrst _ (List.mem_take_iff_getElem.mpr ⟨n, by omega, rfl⟩)
  · rw [List.getElem?_eq_none hge]
    rfl

/-- R168, R240: the edges after the accept edge of a PROC are its round cycles, and use up nothing of the host's but
what it drives at them. -/
theorem run_clock_acceptProc {s : State} (hfull : s.rspFull = false) {n : Nat} (hn : n ≤ 80)
    (hrst : ∀ q ∈ s.host.take n, q.rstN = true) :
    clockCore.run n (acceptProc s) = .next { roundCycles (acceptProc s) n with host := s.host.drop n } := by
  induction n with
  | zero => rfl
  | succ n ih =>
    have hbefore := ih (Nat.le_of_succ_le hn) fun q hq => hrst q (List.take_subset_take_left _ n.le_succ hq)
    have hedge : clock { roundCycles (acceptProc s) n with host := s.host.drop n } =
        .next (engineCycle { roundCycles (acceptProc s) n with host := (s.host.drop n).tail }) :=
      clock_of_busy (roundCycles_phase _ n) ((roundCycles_rspFull _ n).trans hfull) (nextDrive_drop_rstN rfl hrst)
    rw [engineCycle_withHost, engineCycle_roundCycles_acceptProc s hn, List.tail_drop] at hedge
    exact (run_add clockCore n 1 _ _ hbefore).trans ((run_one clockCore _).trans hedge)

/-- Settles O36: after the accept edge and `k - 1` more the engine has done `k - 1` of the 80 rounds and not yet the
fold, so it is BUSY with the accepted state's `H`, `M`, STATUS and command list; the counter is a
round's, or in the fold cycle one of `0..79` (log entry 5). -/
theorem procHoldsInterfaceBusy : Obligations.ProcHoldsInterfaceBusy := by
  intro s p rest c crest k hhost hrst hvalid hcmds hproc hidle hfull hheld hfirst hlast
  obtain ⟨n, rfl⟩ := Nat.exists_eq_add_of_le hfirst
  rw [Nat.add_sub_cancel_left] at hheld
  have hn : n ≤ 80 := Nat.add_le_add_iff_left.mp hlast
  have hready : cmdReady p.rstN s = true := (cmdReady_iff _ _).mpr ⟨hrst, hidle, hfull⟩
  have haccept : clockCore.run 1 s = .next (acceptProc { s with host := rest, cmds := crest }) :=
    (run_one clockCore s).trans (clock_acceptProc hhost hvalid hcmds hready hproc)
  have hrounds := run_clock_acceptProc (s := { s with host := rest, cmds := crest }) hfull hn hheld
  have hrun := (run_add clockCore 1 n _ _ haccept).trans hrounds
  exact ⟨_, hrun, roundCycles_phase _ n, cmdReady_of_busy (roundCycles_phase _ n), roundCycles_H _ n,
    roundCycles_M _ n, roundCycles_status _ n, roundCycles_cmds _ n, roundCycles_acceptProc_t_le _ n⟩

end Sys2Proof.Machine
end

section
/-! Proofs about the decoder and the encoder (30_encoding.md R71 to R77): the round trip in both directions, the match and
mask column, the number of legal words, and which commands read the data word. -/

namespace Sys2Proof.Machine

open Sys2Proof

/-! The round trip. -/

/-- Settles O1: every encoded word is made of a defined opcode and, by well-formedness, an index below its limit, and the
opcode map reads those two fields back. -/
theorem decodeOfEncode : Obligations.DecodeOfEncode := by
  intro i hwf
  cases i with
  | nop => exact decode_commandWord_zero (op := 0) (by decide) 0
  | init => exact decode_commandWord_zero (op := 1) (by decide) 0
  | wrw j d => exact decode_commandWord (op := 2) (by decide) (Nat.lt_succ_of_le (of_decide_eq_true hwf)) d
  | proc => exact decode_commandWord_zero (op := 3) (by decide) 0
  | wrh k d => exact decode_commandWord (op := 4) (by decide) (Nat.lt_succ_of_le (of_decide_eq_true hwf)) d
  | rdh k => exact decode_commandWord (op := 5) (by decide) (Nat.lt_succ_of_le (of_decide_eq_true hwf)) 0
  | rdw t => exact decode_commandWord (op := 6) (by decide) (Nat.lt_succ_of_le (of_decide_eq_true hwf)) 0
  | rdst => exact decode_commandWord_zero (op := 7) (by decide) 0
  | clrerr => exact decode_commandWord_zero (op := 8) (by decide) 0

/-- R72: the rows of WRW and WRH take the data word whole. -/
theorem data_encode_of_decodeOp {op : BitVec 4} {idx : BitVec 7} {data : Word} {i : Instr}
    (hop : op.toNat = 2 ∨ op.toNat = 4) (h : decodeOp op idx data = .legal i) : (encode i).data = data := by
  obtain hop | hop := hop <;>
  · rw [decodeOp, hop] at h
    cases h
    rfl

/-- Settles O2: the command word comes back by `wellFormed_and_encode_of_decode`, the data word by the two rows that read
it. -/
theorem encodeOfDecode : Obligations.EncodeOfDecode := by
  intro c i hdec
  obtain ⟨hwf, hcw⟩ := wellFormed_and_encode_of_decode hdec
  refine ⟨hwf, hcw, fun hop => ?_⟩
  rw [← opField_toNat] at hop
  exact data_encode_of_decodeOp hop (decode_eq_legal hdec).2

/-! Legal words as numbers. -/

/-- `illegalCause_eq_none_iff`, with the fields as digits of the word. -/
theorem illegalCause_eq_none_iff_digits (cw : BitVec 16) :
    illegalCause cw = none ↔
      cw.toNat / 4096 < 9 ∧ cw.toNat / 128 % 32 = 0 ∧ cw.toNat % 128 < indexLimit (opField cw) := by
  rw [illegalCause_eq_none_iff, rsvField_eq_zero_iff, opField_toNat, idxField_toNat]

/-- The limit of an opcode given by its number. -/
theorem indexLimit_opField {cw : BitVec 16} {k : Nat} (hk : cw.toNat / 4096 = k) :
    indexLimit (opField cw) = indexLimit (BitVec.ofNat 4 k) := by
  rw [← hk, ← opField_toNat, BitVec.ofNat_toNat, BitVec.setWidth_eq]

/-- The legal command words as numbers: each defined opcode with each index below its limit (R75). -/
def legalWords : List Nat :=
  (List.range 9).flatMap fun op => (List.range (indexLimit (BitVec.ofNat 4 op))).map (op * 4096 + ·)

/-- No limit reaches past the seven bits of the index field. -/
theorem indexLimit_le_128 (op : BitVec 4) : indexLimit op ≤ 128 := by
  revert op
  decide

theorem mem_legalWords_iff (n : Nat) :
    n ∈ legalWords ↔ n < 65536 ∧ illegalCause (BitVec.ofNat 16 n) = none := by
  simp only [legalWords, List.mem_flatMap, List.mem_map, List.mem_range, illegalCause_eq_none_iff_digits,
    BitVec.toNat_ofNat]
  constructor
  · rintro ⟨op, hop, idx, hidx, rfl⟩
    have hlimit := indexLimit_le_128 (BitVec.ofNat 4 op)
    have hfield : (BitVec.ofNat 16 (op * 4096 + idx)).toNat / 4096 = op := by
      rw [BitVec.toNat_ofNat]
      omega
    rw [indexLimit_opField hfield]
    omega
  · rintro ⟨hn, hop, hrsv, hidx⟩
    rw [Nat.mod_eq_of_lt hn] at hop hrsv hidx
    rw [indexLimit_opField (k := n / 4096) (by rw [BitVec.toNat_ofNat, Nat.mod_eq_of_lt hn])] at hidx
    exact ⟨n / 4096, hop, n % 128, hidx, by omega⟩

/-- Settles O4: the words that pass the legality check are those of `legalWords`, and either list names each of them once;
the second has one entry for each opcode and index. -/
theorem legalWordCount : Obligations.LegalWordCount := by
  have hperm : ((List.range 65536).filter fun n => illegalCause (BitVec.ofNat 16 n) == none).Perm legalWords := by
    refine (List.perm_ext_iff_of_nodup (List.nodup_range.filter _) (by decide)).mpr fun n => ?_
    simp [mem_legalWords_iff]
  exact hperm.length_eq

/-! The match and mask column. -/

/-- A mask of ones from bit `n` up clears the `n` low bits. -/
theorem and_highMask_eq_iff (cw p : BitVec 16) (n : Nat) :
    cw &&& (BitVec.allOnes 16 <<< n) = p ↔ cw.toNat / 2 ^ n * 2 ^ n = p.toNat := by
  have hmask : cw &&& (BitVec.allOnes 16 <<< n) = cw >>> n <<< n := by
    apply BitVec.eq_of_getLsbD_eq
    intro i hi
    simp only [BitVec.getLsbD_and, BitVec.getLsbD_shiftLeft, BitVec.getLsbD_ushiftRight, BitVec.getLsbD_allOnes]
    by_cases hin : i < n
    · simp [hin]
    · simp [hin, hi, Nat.add_sub_cancel' (Nat.le_of_not_lt hin), show i - n < 16 by omega]
  have hfits : cw.toNat / 2 ^ n * 2 ^ n < 2 ^ 16 := (Nat.div_mul_le_self _ _).trans_lt cw.isLt
  rw [hmask, ← BitVec.toNat_inj, BitVec.toNat_shiftLeft, BitVec.toNat_ushiftRight, Nat.shiftRight_eq_div_pow,
    Nat.shiftLeft_eq, Nat.mod_eq_of_lt hfits]

/-- The low bits that the mask of row `k` leaves free: those that the indices of its opcode need. -/
def freeIndexBits (k : Nat) : Nat := if k = 2 then 4 else if k = 4 ∨ k = 5 ∨ k = 6 then 7 else 0

/-- Row `k` of the match and mask column, written by its opcode number. -/
def opcodeRow (k : Nat) : OpcodeRow :=
  ⟨BitVec.ofNat 16 (k * 4096), BitVec.allOnes 16 <<< freeIndexBits k, indexLimit (BitVec.ofNat 4 k) - 1⟩

theorem opcodeRows_eq_map : opcodeRows = (List.range 9).map opcodeRow := by decide

/-- The free bits are index bits, and every index below the limit fits them. -/
theorem freeIndexBits_bounds {k : Nat} (hk : k < 9) :
    freeIndexBits k ≤ 7 ∧ 1 ≤ indexLimit (BitVec.ofNat 4 k) ∧ indexLimit (BitVec.ofNat 4 k) ≤ 2 ^ freeIndexBits k := by
  revert k
  decide

/-- A word whose bits above its `n` low ones are those of opcode `k` alone has that opcode, reserved bits 0 and an index
of `n` bits, and conversely where the limit allows `n` bits only. -/
theorem highDigits_eq_iff {w k n limit : Nat} (hn : n ≤ 7) (hpos : 1 ≤ limit) (hfit : limit ≤ 2 ^ n) :
    (w / 2 ^ n * 2 ^ n = k * 4096 ∧ w % 128 ≤ limit - 1) ↔ w / 4096 = k ∧ w / 128 % 32 = 0 ∧ w % 128 < limit := by
  interval_cases n <;> omega

/-- A row takes a word by the digits of the word. -/
theorem takes_opcodeRow_iff {k : Nat} (hk : k < 9) (cw : BitVec 16) :
    (opcodeRow k).takes cw = true ↔
      cw.toNat / 4096 = k ∧ cw.toNat / 128 % 32 = 0 ∧ cw.toNat % 128 < indexLimit (BitVec.ofNat 4 k) := by
  obtain ⟨hn, hpos, hfit⟩ := freeIndexBits_bounds hk
  have hpattern : (BitVec.ofNat 16 (k * 4096)).toNat = k * 4096 := by
    rw [BitVec.toNat_ofNat]
    omega
  rw [opcodeRow, OpcodeRow.takes, Bool.and_eq_true, decide_eq_true_eq, decide_eq_true_eq, and_highMask_eq_iff,
    idxField_toNat, hpattern, highDigits_eq_iff hn hpos hfit]

/-- A word of opcode `k` decodes to an instruction where its other two digits allow it. -/
theorem opcode_and_legal_iff (c : Command) {k : Nat} (hk : k < 9) :
    (c.cw.toNat / 4096 = k ∧ ∃ i, decode c = .legal i) ↔
      c.cw.toNat / 4096 = k ∧ c.cw.toNat / 128 % 32 = 0 ∧ c.cw.toNat % 128 < indexLimit (BitVec.ofNat 4 k) := by
  rw [exists_decode_eq_legal_iff, illegalCause_eq_none_iff_digits]
  constructor
  · rintro ⟨hop, -, hrsv, hidx⟩
    exact ⟨hop, hrsv, indexLimit_opField hop ▸ hidx⟩
  · rintro ⟨hop, hrsv, hidx⟩
    exact ⟨hop, by omega, hrsv, by rwa [indexLimit_opField hop]⟩

/-- Settles O5: each row's mask is of ones from some bit up, so the row fixes the opcode, the reserved bits and the high
bits of the index, and its maximum is one below the opcode's limit. -/
theorem opcodeRowsMatchDecoder : Obligations.OpcodeRowsMatchDecoder := by
  refine ⟨rfl, fun cw data k r hrow => ?_⟩
  have hk : k < 9 := (List.getElem?_eq_some_iff.mp hrow).1
  rw [opcodeRows_eq_map, List.getElem?_map, List.getElem?_range hk] at hrow
  obtain rfl : opcodeRow k = r := Option.some.inj hrow
  rw [takes_opcodeRow_iff hk, opcode_and_legal_iff ⟨cw, data⟩ hk]

/-! The data word. -/

/-- R72: every row but those of WRW and WRH decodes to the same instruction whatever the data word. -/
theorem decodeOp_eq_of_ignoresData {op : BitVec 4} (h : op.toNat ≠ 2 ∧ op.toNat ≠ 4) (idx : BitVec 7) (d d' : Word) :
    decodeOp op idx d = decodeOp op idx d' := by
  obtain ⟨hwrw, hwrh⟩ := h
  unfold decodeOp
  split
  case h_3 => exact absurd ‹_› hwrw
  case h_5 => exact absurd ‹_› hwrh
  all_goals rfl

/-- Settles O6: an illegal command is handled by its word alone, and of the legal ones only WRW and WRH decode the data
word. -/
theorem dataWordIgnored : Obligations.DataWordIgnored := by
  rintro cw d d' s (hop | ⟨k, hill⟩)
  · rw [← opField_toNat] at hop
    have hdec : decode ⟨cw, d⟩ = decode ⟨cw, d'⟩ := by
      unfold decode
      rw [decodeOp_eq_of_ignoresData hop]
    rw [performCommand, performCommand, hdec]
  · have hcause := illegalCause_of_decode hill
    rw [performCommand_of_illegalCause hcause, performCommand_of_illegalCause hcause]

/-- Settles O7: the decoder evaluated on the nine written-out words. -/
theorem writtenWordsDecode : Obligations.WrittenWordsDecode := by
  unfold Obligations.WrittenWordsDecode
  decide

end Sys2Proof.Machine
end

section
/-! Proofs about what a command can write (10_state.md R20 to R29): the effect of each instruction in range, said once; the
writers of each register, the repetition of reads and writes (20_memory.md R60), and the writes of a whole array. -/

namespace Sys2Proof.Machine

open Sys2Proof

/-! The effect of an instruction. -/

/-- What an instruction with its index in range does to the machine (R75: the rule of its row). -/
def effect (i : Instr) (s : State) : State :=
  match i with
  | .nop => s
  | .init => { s with H := ivRom, hDef := Vector.replicate 5 true }
  | .wrw j d => writeBlock j.toNat d s
  | .proc => processBlock s
  | .wrh k d => writeDigest k.toNat d s
  | .rdh k => respond (wordAt s.H k.toNat) s
  | .rdw t => respond (wordAt s.W t.toNat) s
  | .rdst => respond s.status s
  | .clrerr => clearStatus s

theorem exec_of_wellFormed {i : Instr} (hwf : i.wellFormed = true) (s : State) : exec i s = .next (effect i s) := by
  cases i with
  | wrw j d => exact execWrw_inRange j d s (Nat.lt_succ_of_le (of_decide_eq_true hwf))
  | wrh k d => exact execWrh_inRange k d s (Nat.lt_succ_of_le (of_decide_eq_true hwf))
  | rdh k => exact execRdh_inRange k s (Nat.lt_succ_of_le (of_decide_eq_true hwf))
  | rdw t => exact execRdw_inRange t s (Nat.lt_succ_of_le (of_decide_eq_true hwf))
  | nop | init | proc | rdst | clrerr => rfl

/-- `indexed_outOfRange`, with the limit of the opcode the instruction is encoded with. -/
theorem indexed_eq_illegalCommand {op : BitVec 4} {idx : BitVec 7} {i : Instr}
    (hword : (encode i).cw = commandWord op idx) (hidx : indexLimit op ≤ idx.toNat) (body : Nat → State → State)
    (s : State) : indexed i idx body s = .next (illegalCommand (encode i).cw .badIndex s) :=
  indexed_outOfRange i idx body s (by rwa [hword, opField_commandWord])

/-- An instruction out of range does what its command word does (R201; log entry 11). -/
theorem exec_of_not_wellFormed {i : Instr} (hwf : i.wellFormed = false) (s : State) :
    exec i s = .next (illegalCommand (encode i).cw .badIndex s) := by
  cases i with
  | wrw j d =>
    rw [exec, execWrw, indexed_eq_illegalCommand (op := 2) rfl (Nat.lt_of_not_le (of_decide_eq_false hwf))]
  | wrh k d =>
    rw [exec, execWrh, indexed_eq_illegalCommand (op := 4) rfl (Nat.lt_of_not_le (of_decide_eq_false hwf))]
  | rdh k =>
    rw [exec, execRdh, indexed_eq_illegalCommand (op := 5) rfl (Nat.lt_of_not_le (of_decide_eq_false hwf))]
  | rdw t =>
    rw [exec, execRdw, indexed_eq_illegalCommand (op := 6) rfl (Nat.lt_of_not_le (of_decide_eq_false hwf))]
  | nop | init | proc | rdst | clrerr => cases hwf

/-- The two outcomes of an instruction. -/
theorem exec_cases {i : Instr} {s t : State} (h : exec i s = .next t) :
    (i.wellFormed = true ∧ t = effect i s) ∨
      (i.wellFormed = false ∧ t = illegalCommand (encode i).cw .badIndex s) := by
  cases hwf : i.wellFormed with
  | true =>
    cases (exec_of_wellFormed hwf s).symm.trans h
    exact .inl ⟨rfl, rfl⟩
  | false =>
    cases (exec_of_not_wellFormed hwf s).symm.trans h
    exact .inr ⟨rfl, rfl⟩

/-! What the effect leaves alone, field by field. -/

@[simp] theorem effect_phase (i : Instr) (s : State) : (effect i s).phase = s.phase := by cases i <;> rfl
@[simp] theorem effect_host (i : Instr) (s : State) : (effect i s).host = s.host := by cases i <;> rfl
@[simp] theorem effect_cmds (i : Instr) (s : State) : (effect i s).cmds = s.cmds := by cases i <;> rfl
@[simp] theorem effect_taken (i : Instr) (s : State) : (effect i s).taken = s.taken := by cases i <;> rfl

/-- Only WRW writes the block buffer (R22). -/
theorem effect_M {i : Instr} (h : ∀ j d, i ≠ .wrw j d) (s : State) : (effect i s).M = s.M := by
  cases i with
  | wrw j d => exact absurd rfl (h j d)
  | _ => rfl

/-- Only PROC writes the engine's registers (R23, R24, R25). -/
theorem effect_engine {i : Instr} (h : i ≠ .proc) (s : State) :
    (effect i s).W = s.W ∧ (effect i s).work = s.work ∧ (effect i s).win = s.win ∧ (effect i s).t = s.t ∧
      (effect i s).folding = s.folding := by
  cases i with
  | proc => exact absurd rfl h
  | _ => exact ⟨rfl, rfl, rfl, rfl, rfl⟩

/-- Only INIT, WRH and PROC write the digest registers (R20). -/
theorem effect_H {i : Instr} (hinit : i ≠ .init) (hproc : i ≠ .proc) (hwrh : ∀ k d, i ≠ .wrh k d) (s : State) :
    (effect i s).H = s.H := by
  cases i with
  | init => exact absurd rfl hinit
  | proc => exact absurd rfl hproc
  | wrh k d => exact absurd rfl (hwrh k d)
  | _ => rfl

/-- Of the instructions in range only CLRERR writes STATUS (R29). -/
theorem effect_status {i : Instr} (h : i ≠ .clrerr) (s : State) : (effect i s).status = s.status := by
  cases i with
  | clrerr => exact absurd rfl h
  | _ => rfl

/-- Settles O23: in range, each register is left alone by all effects but those named; out of range, the illegal-command
action writes STATUS and the response slot only. -/
theorem writersOfEachRegister : Obligations.WritersOfEachRegister := by
  intro i s t hexec
  obtain ⟨hwf, rfl⟩ | ⟨hwf, rfl⟩ := exec_cases hexec
  · refine ⟨fun hM => ?_, fun hengine => ?_, fun hH => ?_, fun hstatus => ?_, effect_phase i s, effect_host i s,
      effect_cmds i s, effect_taken i s⟩
    · by_contra hne
      exact hM (effect_M (fun j d hi => hne ⟨j, d, hi⟩) s)
    · by_contra hne
      obtain ⟨hW, hwork, hwin, ht, hfolding⟩ := effect_engine hne s
      simp [hW, hwork, hwin, ht, hfolding] at hengine
    · by_contra hne
      simp only [not_or, not_exists] at hne
      obtain ⟨hinit, hproc, hwrh⟩ := hne
      exact hH (effect_H hinit hproc hwrh s)
    · by_contra hne
      exact hstatus (effect_status (not_or.mp hne).1 s)
  · simp [hwf]

/-! Repetition (R60). -/

theorem setWord_setWord {n : Nat} (v : Vector Word n) (i : Nat) (x : Word) :
    setWord (setWord v i x) i x = setWord v i x := by
  simp [setWord, Vector.setIfInBounds]

theorem setFlag_setFlag {n : Nat} (v : Vector Bool n) (i : Nat) : setFlag (setFlag v i) i = setFlag v i := by
  simp [setFlag, Vector.setIfInBounds]

theorem writeBlock_writeBlock (j : Nat) (d : Word) (s : State) :
    writeBlock j d (writeBlock j d s) = writeBlock j d s := by
  rw [writeBlock, writeBlock_M, writeBlock_mDef, setWord_setWord, setFlag_setFlag]
  rfl

theorem writeDigest_writeDigest (i : Nat) (d : Word) (s : State) :
    writeDigest i d (writeDigest i d s) = writeDigest i d s := by
  rw [writeDigest, writeDigest_H, writeDigest_hDef, setWord_setWord, setFlag_setFlag]
  rfl

/-- Settles O24: a read places a word in the response slot, which no read looks at; a write of a word that stands there
already leaves it. -/
theorem readsAndWritesIdempotent : Obligations.ReadsAndWritesIdempotent := by
  refine ⟨fun i s t hwf hread hexec => ?_, fun i s t hwf hwrite hexec => ?_⟩
  · cases (exec_of_wellFormed hwf s).symm.trans hexec
    rw [exec_of_wellFormed hwf]
    obtain ⟨k, rfl⟩ | ⟨k, rfl⟩ | rfl := hread <;> exact ⟨rfl, rfl⟩
  · cases (exec_of_wellFormed hwf s).symm.trans hexec
    rw [exec_of_wellFormed hwf]
    obtain ⟨j, d, rfl⟩ | ⟨k, d, rfl⟩ | rfl := hwrite
    · exact congrArg _ (writeBlock_writeBlock j.toNat d s)
    · exact congrArg _ (writeDigest_writeDigest k.toNat d s)
    · rfl

/-! Writing a whole array, word by word in index order. -/

/-- The array `v` with the words of `w` at the indices of a list. -/
def setWords {n : Nat} (w : Vector Word n) (js : List Nat) (v : Vector Word n) : Vector Word n :=
  js.foldl (fun u j => setWord u j (wordAt w j)) v

/-- The validity bits with those at the indices of a list set. -/
def setFlags {n : Nat} (js : List Nat) (v : Vector Bool n) : Vector Bool n := js.foldl setFlag v

theorem wordAt_setWords {n : Nat} (w : Vector Word n) (js : List Nat) (v : Vector Word n) {k : Nat} (hk : k < n) :
    wordAt (setWords w js v) k = if k ∈ js then wordAt w k else wordAt v k := by
  induction js generalizing v with
  | nil => rfl
  | cons j js ih =>
    rw [setWords, List.foldl_cons, ← setWords, ih, wordAt_setWord _ _ _ _ hk]
    by_cases hmem : k ∈ js
    · simp [hmem]
    · by_cases hj : k = j <;> simp [hmem, hj]

theorem flagAt_setFlags {n : Nat} (js : List Nat) (v : Vector Bool n) {k : Nat} (hk : k < n) :
    flagAt (setFlags js v) k = if k ∈ js then true else flagAt v k := by
  induction js generalizing v with
  | nil => rfl
  | cons j js ih =>
    rw [setFlags, List.foldl_cons, ← setFlags, ih, flagAt_setFlag _ _ _ hk]
    by_cases hmem : k ∈ js
    · simp [hmem]
    · by_cases hj : k = j <;> simp [hmem, hj]

/-- Nothing of the old array is left when every index has been written. -/
theorem setWords_range {n : Nat} (w v : Vector Word n) : setWords w (List.range n) v = w :=
  vector_ext_wordAt fun k hk => by rw [wordAt_setWords w _ v hk, if_pos (List.mem_range.mpr hk)]

theorem setFlags_range {n : Nat} (v : Vector Bool n) : setFlags (List.range n) v = Vector.replicate n true := by
  apply Vector.ext
  intro k hk
  rw [← flagAt_eq_getElem _ _ hk, flagAt_setFlags _ v hk, if_pos (List.mem_range.mpr hk), Vector.getElem_replicate]

/-- The state after a WRH whose index is given by its number. -/
theorem eq_writeDigest_of_exec_wrh {i : BitVec 7} {d : Word} {s t : State} {k : Nat} (hk : i.toNat = k) (hlt : k < 5)
    (h : exec (.wrh i d) s = .next t) : t = writeDigest k d s := by
  subst hk
  exact (Host.Outcome.next.inj ((execWrh_inRange i d s hlt).symm.trans h)).symm

theorem foldl_writeDigest (h : Vector Word 5) (is : List Nat) (s : State) :
    is.foldl (fun u i => writeDigest i (wordAt h i) u) s =
      { s with H := setWords h is s.H, hDef := setFlags is s.hDef } := by
  induction is generalizing s with
  | nil => rfl
  | cons i is ih => exact ih _

/-- Settles O22: the five writes set every word of `H` and every validity bit, so nothing is left of what they found. -/
theorem wrhOfInitialValuesIsInit : Obligations.WrhOfInitialValuesIsInit := by
  intro s s0 s1 s2 s3 s4 h0 h1 h2 h3 h4
  obtain rfl := eq_writeDigest_of_exec_wrh (k := 0) rfl (by decide) h0
  obtain rfl := eq_writeDigest_of_exec_wrh (k := 1) rfl (by decide) h1
  obtain rfl := eq_writeDigest_of_exec_wrh (k := 2) rfl (by decide) h2
  obtain rfl := eq_writeDigest_of_exec_wrh (k := 3) rfl (by decide) h3
  obtain rfl := eq_writeDigest_of_exec_wrh (k := 4) rfl (by decide) h4
  have hwrites := foldl_writeDigest ivRom (List.range 5) s
  rw [setWords_range, setFlags_range] at hwrites
  exact congrArg Host.Outcome.next hwrites.symm

end Sys2Proof.Machine
end

section
/-! Proofs about one edge of the interface (70_reset_and_hazards.md R230 to R242): an accepted command on the three
machines, an edge that accepts none, the reset edge, and the invariant of the clock edge. -/

namespace Sys2Proof.Machine

open Sys2Proof

/-! An accepted command. -/

theorem performStrict_of_legal {c : Command} {i : Instr} (h : decode c = .legal i) (s : State) :
    performStrict c s = execStrict i s := by
  rw [performStrict, h]

theorem performStrict_of_illegal {c : Command} {k : Cause} (h : decode c = .illegal k) (s : State) :
    performStrict c s = .next (illegalCommand c.cw k s) := by
  rw [performStrict, h]

theorem performCycle_of_legal {c : Command} {i : Instr} (h : decode c = .legal i) (s : State) :
    performCycle c s = if i = .proc then .next (acceptProc s) else exec i s := by
  obtain ⟨hproc, hcycle⟩ | ⟨hne, hcycle⟩ := performCycle_cases c s
  · obtain rfl : i = .proc := Decoded.legal.inj (h.symm.trans hproc)
    rw [hcycle, if_pos rfl]
  · have hi : i ≠ .proc := fun hi => hne (h.trans (congrArg Decoded.legal hi))
    rw [hcycle, if_neg hi, performCommand_of_legal h]

theorem performCycle_of_illegal {c : Command} {k : Cause} (h : decode c = .illegal k) (s : State) :
    performCycle c s = .next (illegalCommand c.cw k s) := by
  obtain ⟨hproc, -⟩ | ⟨-, hcycle⟩ := performCycle_cases c s
  · cases h.symm.trans hproc
  · exact hcycle.trans (performCommand_of_illegalCause (illegalCause_of_decode h) c.data s)

/-- Settles O8: the offered command leaves the port of the ready interface on each machine, and each machine performs it
by its decoding. -/
theorem stepRunsDecodedCommand : Obligations.StepRunsDecodedCommand := by
  intro s p rest c crest hhost hrst hvalid hcmds hidle hfull
  have hready : cmdReady p.rstN s = true := (cmdReady_iff _ _).mpr ⟨hrst, hidle, hfull⟩
  have haccept (perform : Command → State → Host.Outcome State Fault Refusal) :
      edge perform s = perform c { s with host := rest, cmds := crest } :=
    edge_accept hhost hvalid hcmds hready
  rw [step, stepStrict, clock, haccept, haccept, haccept]
  exact ⟨rfl, rfl, rfl,
    fun i hdec => ⟨performCommand_of_legal hdec _, performStrict_of_legal hdec _, performCycle_of_legal hdec _⟩,
    fun k hdec => ⟨performCommand_of_illegalCause (illegalCause_of_decode hdec) c.data _,
      performStrict_of_illegal hdec _, performCycle_of_illegal hdec _⟩⟩

/-- Settles O44: an edge performs a command, which always answers, or answers the waiting or the reset edge. -/
theorem stepAlwaysAnswers : Obligations.StepAlwaysAnswers := by
  intro s
  obtain ⟨c, -, -, hstep⟩ | ⟨-, -, hstep⟩ | ⟨-, hstep⟩ := edge_cases (perform := performCommand) (s := s) rfl
  · obtain ⟨i, -, hperform⟩ | ⟨k, -, hperform⟩ :=
      performCommand_cases c { s with host := s.host.tail, cmds := s.cmds.tail }
    · obtain ⟨t, ht⟩ := exec_answers i { s with host := s.host.tail, cmds := s.cmds.tail }
      exact ⟨t, hstep.trans (hperform.trans ht)⟩
    · exact ⟨_, hstep.trans hperform⟩
  · exact ⟨_, hstep⟩
  · exact ⟨_, hstep⟩

/-! What an edge without an accepted command leaves alone. -/

@[simp] theorem engineTick_M (s : State) : (engineTick s).M = s.M := by unfold engineTick; split <;> simp
@[simp] theorem engineTick_rspFull (s : State) : (engineTick s).rspFull = s.rspFull := by
  unfold engineTick; split <;> simp
@[simp] theorem engineTick_rspData (s : State) : (engineTick s).rspData = s.rspData := by
  unfold engineTick; split <;> simp
@[simp] theorem engineTick_hDef (s : State) : (engineTick s).hDef = s.hDef := by unfold engineTick; split <;> simp
@[simp] theorem engineTick_mDef (s : State) : (engineTick s).mDef = s.mDef := by unfold engineTick; split <;> simp
@[simp] theorem engineTick_host (s : State) : (engineTick s).host = s.host := by unfold engineTick; split <;> simp
@[simp] theorem engineTick_cmds (s : State) : (engineTick s).cmds = s.cmds := by unfold engineTick; split <;> simp
@[simp] theorem engineTick_taken (s : State) : (engineTick s).taken = s.taken := by unfold engineTick; split <;> simp

/-- Taking a response touches the response slot and the host's list of taken words only (R242). -/
theorem takeResponse_frame (ready : Bool) (s : State) :
    takeResponse ready s =
      { s with rspFull := (takeResponse ready s).rspFull, taken := (takeResponse ready s).taken } := by
  unfold takeResponse
  split <;> rfl

/-- A busy engine or a pending response makes the interface not ready (R242). -/
theorem cmdReady_eq_false {s : State} (h : s.phase = .busy ∨ s.rspFull = true) (rstN : Bool) :
    cmdReady rstN s = false := by
  obtain h | h := h
  · exact cmdReady_of_busy h rstN
  · simp [cmdReady, h]

/-- An edge with `rst_n = 1` of an interface that is not ready, with the head of the host's list written out. -/
theorem edge_notReady {perform : Command → State → Host.Outcome State Fault Refusal} {s : State} {p : HostDrive}
    {rest : List HostDrive} (hhost : s.host = p :: rest) (hrst : p.rstN = true)
    (hwait : s.phase = .busy ∨ s.rspFull = true) :
    edge perform s = .next (waitEdge p { s with host := rest }) := by
  have hdrive : nextDrive s = p := by rw [nextDrive, hhost, List.headD_cons]
  rw [edge_wait (hdrive ▸ hrst) (.inr (cmdReady_eq_false hwait true)), hdrive, hhost, List.tail_cons]

/-- Settles O38: both machines make the edge of an interface that is not ready, which accepts nothing; an IDLE engine can
only deliver the response. -/
theorem offeredCommandWaits : Obligations.OfferedCommandWaits := by
  intro s p rest hhost hrst _ _ hwait
  refine ⟨waitEdge p { s with host := rest }, edge_notReady hhost hrst hwait, edge_notReady hhost hrst hwait,
    by simp [waitEdge], by simp [waitEdge], by simp, by simp [waitEdge], by simp [waitEdge], by simp [waitEdge],
    fun hidle => ?_⟩
  have htick : engineTick { s with host := rest } = { s with host := rest } := engineTick_idle hidle
  rw [waitEdge, htick]
  conv_lhs => rw [takeResponse_frame]
  simp

/-- Settles O39: the pending response keeps the interface from being ready, so the edge only takes it or leaves it. -/
theorem responseTakenWhenReady : Obligations.ResponseTakenWhenReady := by
  intro s p rest hhost hrst hfull
  refine ⟨waitEdge p { s with host := rest }, edge_notReady hhost hrst (.inr hfull), fun hready => ?_, fun hready => ?_⟩
  · simp [waitEdge, hready, hfull]
  · simp [waitEdge, hready, hfull]

/-- At an edge of an IDLE core with a response pending, all that can happen is that the host takes it (R241, R242). -/
theorem edge_pending {perform : Command → State → Host.Outcome State Fault Refusal} (s : State) {p : HostDrive}
    {rest : List HostDrive} (hidle : s.phase = .idle) (hfull : s.rspFull = true) (hhost : s.host = p :: rest)
    (hrst : p.rstN = true) : edge perform s = .next (takeResponse p.rspReady { s with host := rest }) := by
  have htick : engineTick { s with host := rest } = { s with host := rest } := engineTick_idle hidle
  rw [edge_notReady hhost hrst (.inr hfull), waitEdge, htick]

/-- While the host does not take the pending response, the edges of an IDLE core use up only what the host drives. -/
theorem run_of_untaken_response {s : State} (hidle : s.phase = .idle) (hfull : s.rspFull = true)
    {ps rest : List HostDrive} (hhost : s.host = ps ++ rest)
    (huntaken : ∀ d ∈ ps, d.rstN = true ∧ d.rspReady = false) :
    core.run ps.length s = .next { s with host := rest } := by
  induction ps generalizing s with
  | nil =>
    rw [← List.nil_append rest, ← hhost]
    rfl
  | cons d ps ih =>
    obtain ⟨hrst, hready⟩ := huntaken d List.mem_cons_self
    have hstep : step s = .next { s with host := ps ++ rest } := by
      rw [step, edge_pending s hidle hfull hhost hrst, hready, takeResponse_eq_self (.inr rfl)]
      rfl
    rw [List.length_cons, Nat.add_comm, run_add core 1 _ _ _ ((run_one core s).trans hstep)]
    exact ih (s := { s with host := ps ++ rest }) hidle hfull rfl fun e he => huntaken e (List.mem_cons_of_mem _ he)

/-- Settles O40: the waiting edges, the edge that delivers the response, and the edge that accepts the command. -/
theorem waitingCommandFollowsResponse : Obligations.WaitingCommandFollowsResponse := by
  intro s ps q a rest c crest hidle hfull hhost hcmds huntaken hqrst hqready harst havalid
  have hwaited := run_of_untaken_response hidle hfull hhost huntaken
  have htaken : step { s with host := q :: a :: rest } =
      .next { s with host := a :: rest, rspFull := false, taken := s.taken ++ [s.rspData] } := by
    rw [step, edge_pending { s with host := q :: a :: rest } hidle hfull rfl hqrst, hqready,
      takeResponse_of_pending (s := { s with host := a :: rest }) hfull]
  have haccepted : step { s with host := a :: rest, rspFull := false, taken := s.taken ++ [s.rspData] } =
      performCommand c { s with host := rest, cmds := crest, rspFull := false, taken := s.taken ++ [s.rspData] } :=
    edge_accept rfl havalid hcmds ((cmdReady_iff _ _).mpr ⟨harst, hidle, rfl⟩)
  rw [run_add core _ 2 _ _ hwaited, run_add core 1 1 _ _ ((run_one core _).trans htaken)]
  exact (run_one core _).trans haccepted

/-! Reset. -/

/-- Settles O41: the edge is the reset edge on both machines. -/
theorem resetEdgeClears : Obligations.ResetEdgeClears := by
  intro s p rest hhost hrst
  have hdrive : nextDrive s = p := by rw [nextDrive, hhost, List.headD_cons]
  have hedge (perform : Command → State → Host.Outcome State Fault Refusal) :
      edge perform s = .next (resetEdge p { s with host := rest }) := by
    rw [edge_reset (hdrive ▸ hrst), hdrive, hhost, List.tail_cons]
  refine ⟨resetEdge p { s with host := rest }, hedge _, hedge _, by simp, by simp, by simp, by simp, by simp, by simp,
    by simp, by simp, fun hfull hready => ?_, fun hkept => ?_⟩
  · simp [hfull, hready]
  · obtain h | h := hkept <;> simp [h]

/-- Settles O43: the fields of the reset state, read off. -/
theorem resetState : Obligations.ResetState :=
  ⟨rfl, rfl, rfl, fun i => Vector.getElem_replicate i.isLt, fun j => Vector.getElem_replicate j.isLt, rfl, rfl, rfl⟩

/-- Settles O12: STATUS 0 has its form, and the engine is IDLE. -/
theorem resetMeetsInvariant : Obligations.ResetMeetsInvariant :=
  have hstatus : statusWellFormed State.reset.status = true := by decide
  ⟨⟨hstatus, rfl⟩, hstatus, nofun, nofun⟩

/-! The invariant of the clock edge. -/

/-- An IDLE engine meets the invariant when STATUS has its form and the fold cycle is not marked. -/
theorem clockInv_of_idle {s : State} (hstatus : statusWellFormed s.status = true) (hidle : s.phase = .idle)
    (hfolding : s.folding = false) : s.ClockInv :=
  ⟨hstatus, fun hbusy => absurd (hidle.symm.trans hbusy) nofun, fun hfold => absurd (hfolding.symm.trans hfold) nofun⟩

theorem State.ClockInv.folding_of_idle {s : State} (hinv : s.ClockInv) (hidle : s.phase = .idle) :
    s.folding = false := by
  obtain ⟨-, -, hfold⟩ := hinv
  rw [← Bool.not_eq_true]
  exact fun h => absurd (hidle.symm.trans (hfold h)) nofun

/-- No accepted command of the transaction level marks the fold cycle: PROC clears the mark, the others leave it. -/
theorem performCommand_folding {c : Command} {s t : State} (hs : s.folding = false)
    (h : performCommand c s = .next t) : t.folding = false := by
  obtain ⟨i, hdec, hexec⟩ | ⟨k, -, hill⟩ := performCommand_cases c s
  · have hwf := (wellFormed_and_encode_of_decode hdec).1
    cases h.symm.trans (hexec.trans (exec_of_wellFormed hwf s))
    by_cases hproc : i = .proc
    · subst hproc
      rfl
    · obtain ⟨-, -, -, -, hfolding⟩ := effect_engine hproc s
      exact hfolding.trans hs
  · cases h.symm.trans hill
    exact (illegalCommand_folding c.cw k s).trans hs

/-- An accepted command starts a PROC with the counter at 0, or leaves the engine IDLE. -/
theorem State.ClockInv.performCycle {c : Command} {s t : State} (hinv : s.ClockInv) (hidle : s.phase = .idle)
    (hfull : s.rspFull = false) (h : performCycle c s = .next t) : t.ClockInv := by
  have hfolding := hinv.folding_of_idle hidle
  obtain ⟨hstatus, -, -⟩ := hinv
  obtain ⟨-, hcycle⟩ | ⟨-, hcycle⟩ := performCycle_cases c s
  · cases h.symm.trans hcycle
    exact ⟨hstatus, fun _ => ⟨hfull, Nat.zero_le 79⟩, nofun⟩
  · rw [hcycle] at h
    obtain ⟨hwrote, hphase⟩ := performCommand_status h
    exact clockInv_of_idle (hwrote.statusWellFormed hstatus) (hphase.trans hidle) (performCommand_folding hfolding h)

/-- A round cycle keeps the engine BUSY and the counter in range (R25, R167); the fold cycle returns it to IDLE (R169). -/
theorem State.ClockInv.engineTick {s : State} (hinv : s.ClockInv) : (engineTick s).ClockInv := by
  cases hphase : s.phase with
  | idle => rwa [engineTick_idle hphase]
  | busy =>
    obtain ⟨hstatus, hbusy, -⟩ := hinv
    obtain ⟨hfull, -⟩ := hbusy hphase
    rw [engineTick_busy hphase, engineCycle]
    split
    · exact ⟨hstatus, fun _ => ⟨hfull, nextCount_le s⟩, fun _ => hphase⟩
    · exact clockInv_of_idle hstatus rfl rfl

/-- Taking a response can only empty the slot. -/
theorem State.ClockInv.takeResponse {s : State} (hinv : s.ClockInv) (ready : Bool) :
    (takeResponse ready s).ClockInv := by
  obtain ⟨hstatus, hbusy, hfold⟩ := hinv
  refine ⟨by simpa using hstatus, fun h => ?_, by simpa using hfold⟩
  obtain ⟨hfull, ht⟩ := hbusy (by simpa using h)
  exact ⟨by simp [hfull], by simpa using ht⟩

/-- Settles O37: an accepted command finds the engine IDLE, an edge without one makes a cycle of the engine and takes a
response, and the reset edge leaves the engine IDLE with STATUS 0. -/
theorem clockKeepsInvariant : Obligations.ClockKeepsInvariant := by
  intro s s' hinv hclock
  obtain ⟨c, -, hready, hnext⟩ | ⟨-, -, hnext⟩ | ⟨-, hnext⟩ := edge_cases hclock
  · obtain ⟨-, hidle, hfull⟩ := (cmdReady_iff _ _).mp hready
    have hoffered : State.ClockInv { s with host := s.host.tail, cmds := s.cmds.tail } := hinv
    exact hoffered.performCycle hidle hfull hnext.symm
  · cases hnext
    have hdriven : State.ClockInv { s with host := s.host.tail } := hinv
    exact hdriven.engineTick.takeResponse _
  · cases hnext
    exact clockInv_of_idle (by rw [resetEdge_status]; decide) (resetEdge_phase _ _) (resetEdge_folding _ _)

end Sys2Proof.Machine
end

section
/-! Proofs about the checked machine's independence of unwritten words (10_state.md R37, 60_exceptions.md R210): every
operation of an edge takes two states that agree on everything written to two that agree again, or faults in both. -/

namespace Sys2Proof.Machine

open Sys2Proof

/-! What the absence of a fault says. -/

theorem undefinedRead_proc_eq_none_iff (s : State) :
    undefinedRead .proc s = none ↔
      (∀ i, i < 5 → flagAt s.hDef i = true) ∧ ∀ j, j < 16 → flagAt s.mDef j = true := by
  rw [← firstUndefined_eq_none_iff, ← firstUndefined_eq_none_iff, undefinedRead]
  cases firstUndefined s.hDef 5 <;> simp

theorem undefinedRead_rdh_eq_none_iff {k : BitVec 7} (h : k.toNat < 5) (s : State) :
    undefinedRead (.rdh k) s = none ↔ flagAt s.hDef k.toNat = true := by
  rw [undefinedRead_rdh_inRange h, flagAt_eq_getElem _ _ h]
  cases s.hDef[k.toNat] <;> simp

theorem undefinedRead_rdw_eq_none_iff {t : BitVec 7} (h : t.toNat < 80) (s : State) :
    undefinedRead (.rdw t) s = none ↔ s.wDef = true := by
  rw [undefinedRead_rdw_inRange h]
  cases s.wDef <;> simp

/-- The fault is decided by the validity shadow alone (R37). -/
theorem undefinedRead_congr (i : Instr) {s u : State} (hH : s.hDef = u.hDef) (hM : s.mDef = u.mDef)
    (hW : s.wDef = u.wDef) : undefinedRead i s = undefinedRead i u := by
  cases i <;> simp only [undefinedRead, hH, hM, hW]

/-! Agreement of arrays. -/

/-- Where every validity bit is set, agreement is equality. -/
theorem AgreeWhere.eq_of_valid {n : Nat} {valid : Vector Bool n} {v w : Vector Word n} (h : AgreeWhere valid v w)
    (hvalid : ∀ i, i < n → flagAt valid i = true) : v = w :=
  vector_ext_wordAt fun i hi => h i hi (hvalid i hi)

/-- The same word written to both arrays is one more word they agree on. -/
theorem AgreeWhere.write {n : Nat} {valid : Vector Bool n} {v w : Vector Word n} (h : AgreeWhere valid v w) (j : Nat)
    (d : Word) : AgreeWhere (setFlag valid j) (setWord v j d) (setWord w j d) := by
  intro i hi hflag
  rw [wordAt_setWord _ _ _ _ hi, wordAt_setWord _ _ _ _ hi]
  rw [flagAt_setFlag _ _ _ hi] at hflag
  by_cases hij : i = j
  · simp [hij]
  · rw [if_neg hij] at hflag
    simp [hij, h i hi hflag]

/-! Agreement of states, operation by operation. -/

theorem respond_agree {s u : State} (h : AgreeOnWritten s u) {v w : Word} (hvw : v = w) :
    AgreeOnWritten (respond v s) (respond w u) :=
  { h with rspFull := rfl, rspData := fun _ => hvw }

/-- An instruction that reads no undefined word writes the same words in both states. -/
theorem effect_agree {s u : State} (h : AgreeOnWritten s u) {i : Instr} (hwf : i.wellFormed = true)
    (hdefined : undefinedRead i s = none) : AgreeOnWritten (effect i s) (effect i u) := by
  cases i with
  | nop => exact h
  | init => exact { h with hDef := rfl, digest := fun _ _ _ => rfl }
  | wrw j d => exact { h with mDef := congrArg (setFlag · j.toNat) h.mDef, block := h.block.write j.toNat d }
  | proc =>
    obtain ⟨hH, hM⟩ := (undefinedRead_proc_eq_none_iff s).mp hdefined
    have hdigest : s.H = u.H := h.digest.eq_of_valid hH
    have hblock : s.M = u.M := h.block.eq_of_valid hM
    exact
      { h with
        wDef := rfl
        digest := fun i _ _ => by rw [effect, effect, processBlock_H, processBlock_H, hdigest, hblock]
        schedule := fun _ => congrArg expand hblock
        freeCount := congrArg (· + 1) h.freeCount }
  | wrh k d => exact { h with hDef := congrArg (setFlag · k.toNat) h.hDef, digest := h.digest.write k.toNat d }
  | rdh k =>
    have hk : k.toNat < 5 := Nat.lt_succ_of_le (of_decide_eq_true hwf)
    exact respond_agree h (h.digest _ hk ((undefinedRead_rdh_eq_none_iff hk s).mp hdefined))
  | rdw t =>
    have ht : t.toNat < 80 := Nat.lt_succ_of_le (of_decide_eq_true hwf)
    exact respond_agree h (congrArg (wordAt · t.toNat) (h.schedule ((undefinedRead_rdw_eq_none_iff ht s).mp hdefined)))
  | rdst => exact respond_agree h h.status
  | clrerr => exact { h with status := rfl }

theorem recordIllegal_agree {s u : State} (h : AgreeOnWritten s u) (cw : BitVec 16) (k : Cause) :
    AgreeOnWritten (recordIllegal cw k s) (recordIllegal cw k u) := by
  rw [recordIllegal, recordIllegal, ← h.status]
  split
  · exact h
  · exact { h with status := rfl }

/-- The illegal-command action reads STATUS only (R203, R204). -/
theorem illegalCommand_agree {s u : State} (h : AgreeOnWritten s u) (cw : BitVec 16) (k : Cause) :
    AgreeOnWritten (illegalCommand cw k s) (illegalCommand cw k u) := by
  rw [illegalCommand, illegalCommand]
  split
  · exact respond_agree (recordIllegal_agree h cw k) rfl
  · exact recordIllegal_agree h cw k

/-- A response that is taken was pending, so both states hand over the same word. -/
theorem takeResponse_agree {s u : State} (h : AgreeOnWritten s u) (ready : Bool) :
    AgreeOnWritten (takeResponse ready s) (takeResponse ready u) := by
  rw [takeResponse, takeResponse, ← h.rspFull]
  split
  case isTrue htaken =>
    have hdata : s.rspData = u.rspData := h.rspData (Bool.and_eq_true_iff.mp htaken).1
    exact { h with rspFull := rfl, rspData := nofun, taken := by rw [h.taken, hdata] }
  case isFalse => exact h

/-- After the reset action nothing is valid, and the free values are drawn at the same count. -/
theorem resetRegisters_agree {s u : State} (h : AgreeOnWritten s u) :
    AgreeOnWritten (resetRegisters s) (resetRegisters u) :=
  { h with
    idle := ⟨rfl, rfl⟩
    status := rfl
    rspFull := rfl
    rspData := nofun
    hDef := rfl
    mDef := rfl
    wDef := rfl
    digest := fun _ _ _ => by rw [resetRegisters_H, resetRegisters_H, h.freeCount]
    block := fun _ _ _ => by rw [resetRegisters_M, resetRegisters_M, h.freeCount]
    schedule := nofun
    freeCount := congrArg (· + 1) h.freeCount }

theorem waitEdge_agree {s u : State} (h : AgreeOnWritten s u) (p : HostDrive) :
    AgreeOnWritten (waitEdge p s) (waitEdge p u) := by
  obtain ⟨hs, hu⟩ := h.idle
  rw [waitEdge, waitEdge, engineTick_idle hs, engineTick_idle hu]
  exact takeResponse_agree h p.rspReady

/-! Agreement of outcomes. -/

/-- Two outcomes are the same fault, or two states that agree on everything written. -/
def AgreeOutcomes (o q : Host.Outcome State Fault Refusal) : Prop :=
  (∀ s, o = .next s → ∃ u, q = .next u ∧ AgreeOnWritten s u) ∧ ∀ f, o = .fault f → q = .fault f

theorem agreeOutcomes_next {s u : State} (h : AgreeOnWritten s u) : AgreeOutcomes (.next s) (.next u) := by
  refine ⟨fun _ hs => ?_, nofun⟩
  cases hs
  exact ⟨u, rfl, h⟩

theorem agreeOutcomes_fault (f : Fault) : AgreeOutcomes (.fault f) (.fault f) := ⟨nofun, fun _ => id⟩

theorem execStrict_agree {s u : State} (h : AgreeOnWritten s u) {i : Instr} (hwf : i.wellFormed = true) :
    AgreeOutcomes (execStrict i s) (execStrict i u) := by
  have hshadow : undefinedRead i s = undefinedRead i u := undefinedRead_congr i h.hDef h.mDef h.wDef
  cases hread : undefinedRead i s with
  | some r =>
    rw [execStrict, execStrict, ← hshadow, hread]
    exact agreeOutcomes_fault _
  | none =>
    rw [execStrict_of_defined hread, execStrict_of_defined (hshadow.symm.trans hread), exec_of_wellFormed hwf,
      exec_of_wellFormed hwf]
    exact agreeOutcomes_next (effect_agree h hwf hread)

theorem performStrict_agree {s u : State} (h : AgreeOnWritten s u) (c : Command) :
    AgreeOutcomes (performStrict c s) (performStrict c u) := by
  cases hdec : decode c with
  | legal i =>
    rw [performStrict_of_legal hdec, performStrict_of_legal hdec]
    exact execStrict_agree h (wellFormed_and_encode_of_decode hdec).1
  | illegal k =>
    rw [performStrict_of_illegal hdec, performStrict_of_illegal hdec]
    exact agreeOutcomes_next (illegalCommand_agree h c.cw k)

/-- The edge at which an offered command is accepted, whatever the host's lists are. -/
theorem edge_of_offered {perform : Command → State → Host.Outcome State Fault Refusal} {s : State} {c : Command}
    (hoffer : offeredCommand (nextDrive s) s = some c) (hready : cmdReady (nextDrive s).rstN s = true) :
    edge perform s = perform c { s with host := s.host.tail, cmds := s.cmds.tail } := by
  have hrst : (nextDrive s).rstN = true := ((cmdReady_iff _ _).mp hready).1
  rw [hrst] at hready
  simp [edge, hoffer, hrst, hready]

/-- Both states see the same host, so they make the same edge: both accept the same command, both wait, or both reset. -/
theorem stepStrict_agree {s u : State} (h : AgreeOnWritten s u) :
    AgreeOutcomes (stepStrict s) (stepStrict u) := by
  have hdrive : nextDrive u = nextDrive s := by rw [nextDrive, nextDrive, h.host]
  have hoffered : offeredCommand (nextDrive s) u = offeredCommand (nextDrive s) s := by
    rw [offeredCommand, offeredCommand, h.cmds]
  have hready (rstN : Bool) : cmdReady rstN u = cmdReady rstN s := by
    rw [cmdReady, cmdReady, h.idle.1, h.idle.2, h.rspFull]
  have hdriven : AgreeOnWritten { s with host := s.host.tail } { u with host := u.host.tail } :=
    { h with host := congrArg List.tail h.host }
  obtain ⟨c, hoffer, hrdy, hstep⟩ | ⟨hrst, hnone, hstep⟩ | ⟨hrst, hstep⟩ :=
    edge_cases (perform := performStrict) (s := s) rfl
  · have hu : edge performStrict u = performStrict c { u with host := u.host.tail, cmds := u.cmds.tail } :=
      edge_of_offered (by rw [hdrive, hoffered, hoffer]) (by rw [hdrive, hready, hrdy])
    have haccepted : AgreeOnWritten { s with host := s.host.tail, cmds := s.cmds.tail }
        { u with host := u.host.tail, cmds := u.cmds.tail } :=
      { hdriven with cmds := congrArg List.tail h.cmds }
    rw [stepStrict, stepStrict, hstep, hu]
    exact performStrict_agree haccepted c
  · have hu := edge_wait (perform := performStrict) (s := u) (hdrive ▸ hrst) (by rwa [hdrive, hoffered, hready])
    rw [stepStrict, stepStrict, hstep, hu, hdrive]
    exact agreeOutcomes_next (waitEdge_agree hdriven _)
  · have hu := edge_reset (perform := performStrict) (s := u) (hdrive ▸ hrst)
    rw [stepStrict, stepStrict, hstep, hu, hdrive]
    exact agreeOutcomes_next (resetRegisters_agree (takeResponse_agree hdriven _))

/-- Settles O46: agreement on everything written is kept by the edge, since the validity shadow, which both states
share, decides the faults and guards every word that is read. -/
theorem unwrittenWordsDoNotMatter : Obligations.UnwrittenWordsDoNotMatter := fun _ _ => stepStrict_agree

end Sys2Proof.Machine
end

section
/-! Proofs about PROC (43_compression_engine.md): the atomic command (R162), the circular expander (42_schedule_expander.md
R137), and the micro-sequence that refines the command (R166 to R169). -/

namespace Sys2Proof.Machine

open Sys2Proof

/-! The atomic command. -/

/-- R161: the digest after PROC is the digest before plus the working registers, word by word. -/
theorem fold_getElem (h : Vector Word 5) (x : Work) :
    (fold h x)[0] = h[0] + x.a ∧ (fold h x)[1] = h[1] + x.b ∧ (fold h x)[2] = h[2] + x.c ∧ (fold h x)[3] = h[3] + x.d ∧
      (fold h x)[4] = h[4] + x.e :=
  ⟨rfl, rfl, rfl, rfl, rfl⟩

theorem execStrict_proc_of_valid {s : State} (hH : ∀ i : Fin 5, s.hDef[i.val] = true)
    (hM : ∀ j : Fin 16, s.mDef[j.val] = true) : execStrict .proc s = .next (processBlock s) := by
  refine execStrict_of_defined ((undefinedRead_proc_eq_none_iff s).mpr ⟨fun i hi => ?_, fun j hj => ?_⟩)
  · rw [flagAt_eq_getElem _ _ hi]
    exact hH ⟨i, hi⟩
  · rw [flagAt_eq_getElem _ _ hj]
    exact hM ⟨j, hj⟩

/-- R131 as PROC leaves it in `W`, with the indices counted from the oldest word read. -/
theorem getElem_expand_add_sixteen (m : Vector Word 16) (k : Fin 64) :
    (expand m)[k.val + 16] = rotl32 ((expand m)[k.val + 13] ^^^ (expand m)[k.val + 8] ^^^ (expand m)[k.val + 2] ^^^
      (expand m)[k.val]) 1 :=
  (expansionRecurrence m).2 (k.val + 16) (by omega) (by omega)

/-- Settles O21: `W` by the recurrence, the chain of rounds by `roundsUpTo`, `H` by the fold, and the fault by the
validity shadow. -/
theorem procExpandsRoundsAndFolds : Obligations.ProcExpandsRoundsAndFolds := by
  refine ⟨illegalOutside_indexLimit (op := 3) (by decide), rfl, decode_commandWord_zero (op := 3) (by decide),
    fun s => ⟨processBlock s, rfl, (expansionRecurrence s.M).1, getElem_expand_add_sixteen s.M, ?_, rfl, rfl, rfl, rfl,
      rfl, rfl, fun k => ?_, rfl, execStrict_proc_of_valid, fun hundefined => ?_⟩⟩
  · refine ⟨roundsUpTo (expand s.M) (Work.ofDigest s.H), rfl, fun r => ?_, rfl⟩
    rw [processBlock_W, ← wordAt_eq_getElem _ _ r.isLt]
    rfl
  · rw [processBlock_win, processBlock_W, lastWindow, Vector.getElem_ofFn, wordAt_eq_getElem _ _ (by omega)]
    simp only [Nat.add_comm]
  · rw [← undefinedRead_proc_ne_none_iff] at hundefined
    exact (exists_execStrict_fault_iff .proc s).mpr hundefined

/-- Settles O32: the fold added the working registers, so subtracting the old digest gives them back. -/
theorem workIsDigestDifference : Obligations.WorkIsDigestDifference := by
  intro s t hproc
  cases hproc
  obtain ⟨h0, h1, h2, h3, h4⟩ := fold_getElem s.H (rounds s.H (expand s.M))
  simp only [processBlock_H, processBlock_work, compress, h0, h1, h2, h3, h4, add_sub_cancel_left]

/-- Settles O33, with the initial state, the zero state, and the one-block messages "abc" and "" (TV-L1, TV-L2). -/
theorem blockOrderMatters : Obligations.BlockOrderMatters :=
  ⟨ivRom, Vector.replicate 5 0, #v[0x61626380, 0, 0, 0, 0, 0, 0, 0, 0, 0, 0, 0, 0, 0, 0, 0x18],
    #v[0x80000000, 0, 0, 0, 0, 0, 0, 0, 0, 0, 0, 0, 0, 0, 0, 0], by decide +kernel⟩

/-! The circular expander. -/

/-- After `n` rounds slot `i mod 16` holds word `i` of the schedule, for the last sixteen words in place: the block's own
until round 16. -/
def CircularHolds (m : Vector Word 16) (n : Nat) (slots : Vector Word 16) : Prop :=
  ∀ i, i < 80 → i < max n 16 → max n 16 ≤ i + 16 → wordAt slots (i % 16) = wordAt (expand m) i

/-- R137: the word of round `n` is read from slots that hold the words of the recurrence. -/
theorem CircularHolds.circularWord {m : Vector Word 16} {n : Nat} {x : Circular} (h : CircularHolds m n x.slots)
    (hn : n < 80) : circularWord x n = wordAt (expand m) n := by
  unfold Machine.circularWord
  split
  case isTrue hlt =>
    have hslot := h n hn (by omega) (by omega)
    rwa [Nat.mod_eq_of_lt hlt] at hslot
  case isFalse hge =>
    rw [wordAt_expand_of_ge m (by omega) hn, scheduleWord, h (n - 3) (by omega) (by omega) (by omega),
      h (n - 8) (by omega) (by omega) (by omega), h (n - 14) (by omega) (by omega) (by omega),
      ← h (n - 16) (by omega) (by omega) (by omega), show (n - 16) % 16 = n % 16 by omega]

/-- A round writes word `n` over word `n - 16`, which no later round reads. -/
theorem CircularHolds.circularStep {m : Vector Word 16} {n : Nat} {x : Circular} (h : CircularHolds m n x.slots)
    (hn : n < 80) : CircularHolds m (n + 1) (circularStep x n).slots := by
  intro i hi hlt hwithin
  by_cases hblock : n < 16
  · rw [Machine.circularStep, if_pos hblock]
    exact h i hi (by omega) (by omega)
  · rw [Machine.circularStep, if_neg hblock, wordAt_setWord _ _ _ _ (by omega), h.circularWord hn]
    by_cases hin : i = n
    · simp [hin]
    · rw [if_neg (by omega)]
      exact h i hi (by omega) (by omega)

/-- After `n` rounds the slots hold the last sixteen words, and the store the first `n`. -/
theorem circularUpTo_holds (m : Vector Word 16) (old : Vector Word 80) {n : Nat} (hn : n ≤ 80) :
    CircularHolds m n (circularUpTo m old n).slots ∧
      ∀ k, k < n → wordAt (circularUpTo m old n).store k = wordAt (expand m) k := by
  induction n with
  | zero =>
    refine ⟨fun i _ hi _ => ?_, fun k hk => absurd hk k.not_lt_zero⟩
    have hi : i < 16 := by omega
    rw [Nat.mod_eq_of_lt hi, wordAt_expand_of_lt m hi]
    rfl
  | succ n ih =>
    obtain ⟨hslots, hstore⟩ := ih (Nat.le_of_succ_le hn)
    refine ⟨hslots.circularStep hn, fun k hk => ?_⟩
    rw [circularUpTo, circularStep, wordAt_setWord _ _ _ _ (by omega), hslots.circularWord hn]
    by_cases hkn : k = n
    · rw [if_pos hkn, hkn]
    · rw [if_neg hkn]
      exact hstore k (by omega)

/-- Settles O31: after eighty rounds every word of the store is the expansion's. -/
theorem circularExpanderAgrees : Obligations.CircularExpanderAgrees := fun m old =>
  vector_ext_wordAt (circularUpTo_holds m old le_rfl).2

/-! The micro-sequence. -/

/-- What the window holds after `n` rounds: the block while rounds load from it, then the sixteen words before word `n`
(R137). -/
def WindowHolds (m : Vector Word 16) (n : Nat) (win : Vector Word 16) : Prop :=
  ∀ k, k < 16 → wordAt win k = if n ≤ 16 then wordAt m k else wordAt (expand m) (n - 16 + k)

/-- From round 16 on the window holds schedule words, the block's own at round 16. -/
theorem WindowHolds.wordAt_of_ge {m : Vector Word 16} {n : Nat} {win : Vector Word 16} (h : WindowHolds m n win)
    (hn : 16 ≤ n) {k : Nat} (hk : k < 16) : wordAt win k = wordAt (expand m) (n - 16 + k) := by
  rw [h k hk]
  split
  case isTrue hle =>
    obtain rfl : n = 16 := le_antisymm hle hn
    rw [Nat.sub_self, Nat.zero_add, wordAt_expand_of_lt m hk]
  case isFalse => rfl

/-- R137: the window delivers the word of the recurrence. -/
theorem WindowHolds.windowWord {m : Vector Word 16} {n : Nat} {win : Vector Word 16} (h : WindowHolds m n win)
    (hn : n < 80) : windowWord win n = wordAt (expand m) n := by
  unfold Machine.windowWord
  split
  case isTrue hlt => rw [h n hlt, if_pos hlt.le, wordAt_expand_of_lt m hlt]
  case isFalse hge =>
    have hge : 16 ≤ n := Nat.le_of_not_lt hge
    rw [wordAt_expand_of_ge m hge hn, scheduleWord, h.wordAt_of_ge hge (by decide), h.wordAt_of_ge hge (by decide),
      h.wordAt_of_ge hge (by decide), h.wordAt_of_ge hge (by decide), show n - 16 + 13 = n - 3 by omega,
      show n - 16 + 8 = n - 8 by omega, show n - 16 + 2 = n - 14 by omega, Nat.add_zero]

theorem wordAt_shiftWindow (win : Vector Word 16) (w : Word) {k : Nat} (hk : k < 16) :
    wordAt (shiftWindow win w) k = if k < 15 then wordAt win (k + 1) else w := by
  rw [wordAt_eq_getElem _ _ hk, shiftWindow, Vector.getElem_ofFn]

theorem WindowHolds.nextWindow {m : Vector Word 16} {n : Nat} {win : Vector Word 16} (h : WindowHolds m n win)
    (hn : n < 80) : WindowHolds m (n + 1) (nextWindow win n) := by
  intro k hk
  unfold Machine.nextWindow
  by_cases hlt : n < 16
  · rw [if_pos hlt, if_pos (Nat.succ_le_of_lt hlt), h k hk, if_pos hlt.le]
  · rw [if_neg hlt, if_neg (by omega), wordAt_shiftWindow _ _ hk, h.windowWord hn]
    split
    · rw [h.wordAt_of_ge (by omega) (by omega), show n - 16 + (k + 1) = n + 1 - 16 + k by omega]
    · rw [show n + 1 - 16 + k = n by omega]

/-- R168: after `n` round cycles the window, the store and the working registers are those of `n` rounds of the
recurrence. -/
theorem roundCycles_acceptProc_datapath (s : State) {n : Nat} (hn : n ≤ 80) :
    WindowHolds s.M n (roundCycles (acceptProc s) n).win ∧
      (∀ k, k < 80 → wordAt (roundCycles (acceptProc s) n).W k =
        if k < n then wordAt (expand s.M) k else wordAt s.W k) ∧
      (roundCycles (acceptProc s) n).work = roundsUpTo (expand s.M) (Work.ofDigest s.H) n := by
  induction n with
  | zero => exact ⟨fun _ _ => rfl, fun _ _ => rfl, rfl⟩
  | succ n ih =>
    obtain ⟨hwin, hW, hwork⟩ := ih (Nat.le_of_succ_le hn)
    have ht : (roundCycles (acceptProc s) n).t.toNat = n :=
      (roundCycles_acceptProc_t_folding s (Nat.le_of_succ_le hn)).1 hn
    have hword := hwin.windowWord hn
    refine ⟨?_, fun k hk => ?_, ?_⟩
    · rw [roundCycles, roundCycle_win, ht]
      exact hwin.nextWindow hn
    · rw [roundCycles, roundCycle_W, ht, wordAt_setWord _ _ _ _ hk, hword, hW k hk]
      by_cases hkn : k = n
      · simp [hkn]
      · simp [hkn, show k < n + 1 ↔ k < n by omega]
    · rw [roundCycles, roundCycle_work, ht, hword, hwork]
      rfl

/-- Settles O34: the data path by the induction over the rounds, the counter and the frame by the lemmas about the
BUSY engine. -/
theorem stateAfterRoundCycles : Obligations.StateAfterRoundCycles := by
  intro s n hn
  obtain ⟨hwin, hW, hwork⟩ := roundCycles_acceptProc_datapath s hn
  obtain ⟨ht, hfolding⟩ := roundCycles_acceptProc_t_folding s hn
  refine ⟨fun k => ?_, hwork, ht, fun _ => roundCycles_acceptProc_t_le s n, hfolding, fun k => hwin k k.isLt, ?_⟩
  · simpa only [wordAt_eq_getElem _ _ k.isLt] using hW k k.isLt
  · rw [← hfolding]
    exact roundCycles_frame (acceptProc s) n

/-- R169: the fold cycle after the eighty rounds leaves the state that the atomic command leaves. -/
theorem engineCycle_after_rounds {s : State} (hidle : s.phase = .idle) :
    engineCycle (roundCycles (acceptProc s) 80) = processBlock s := by
  obtain ⟨hwin, hW, hwork⟩ := roundCycles_acceptProc_datapath s le_rfl
  obtain ⟨-, hfolding⟩ := roundCycles_acceptProc_t_folding s (n := 80) le_rfl
  have hW : (roundCycles (acceptProc s) 80).W = expand s.M :=
    vector_ext_wordAt fun k hk => by rw [hW k hk, if_pos hk]
  have hwin : (roundCycles (acceptProc s) 80).win = lastWindow (expand s.M) :=
    vector_ext_wordAt fun k hk => by
      rw [hwin.wordAt_of_ge (by decide) hk, wordAt_eq_getElem (lastWindow _) _ hk, lastWindow, Vector.getElem_ofFn]
  have hfold : ¬((roundCycles (acceptProc s) 80).folding = false ∧ (roundCycles (acceptProc s) 80).t.toNat < 80) := by
    simp [hfolding]
  rw [engineCycle, if_neg hfold, roundCycles_frame, hW, hwin, hwork, foldCycle, processBlock, ← hidle]
  rfl

/-- `clock_of_busy`, with what the host drives apart from the rest of the state. -/
theorem clock_withHost_of_busy {s : State} {l : List HostDrive} {n : Nat} (hbusy : s.phase = .busy)
    (hfull : s.rspFull = false) (hrst : ∀ q ∈ l.take (n + 1), q.rstN = true) :
    clock { s with host := l.drop n } = .next { engineCycle s with host := l.drop (n + 1) } := by
  have hedge : clock { s with host := l.drop n } = .next (engineCycle { s with host := (l.drop n).tail }) :=
    clock_of_busy hbusy hfull (nextDrive_drop_rstN rfl hrst)
  rwa [engineCycle_withHost, List.tail_drop] at hedge

/-- R168, R169: the 81 BUSY cycles after the accept edge of a PROC leave the state of the atomic command, whatever the
host drives at them with `rst_n = 1`. -/
theorem run_clock_busy_cycles {s : State} (hidle : s.phase = .idle) (hfull : s.rspFull = false)
    (hrst : ∀ q ∈ s.host.take 81, q.rstN = true) :
    clockCore.run 81 (acceptProc s) = .next { processBlock s with host := s.host.drop 81 } := by
  have hrounds := run_clock_acceptProc hfull (n := 80) le_rfl
    fun q hq => hrst q (List.take_subset_take_left s.host (Nat.le_succ 80) hq)
  have hfold := clock_withHost_of_busy (roundCycles_phase (acceptProc s) 80)
    ((roundCycles_rspFull (acceptProc s) 80).trans hfull) hrst
  rw [engineCycle_after_rounds hidle] at hfold
  exact (run_add clockCore 80 1 _ _ hrounds).trans ((run_one clockCore _).trans hfold)

/-- Settles O35: the accept edge, then the BUSY cycles, at which nothing is accepted or taken. -/
theorem microSequenceRefinesProc : Obligations.MicroSequenceRefinesProc := by
  intro s p rest c crest hhost hrst hvalid hcmds hproc hidle hfull hheld
  have hready : cmdReady p.rstN s = true := (cmdReady_iff _ _).mpr ⟨hrst, hidle, hfull⟩
  have hstep : step s = .next (processBlock { s with host := rest, cmds := crest }) := by
    rw [step, edge_accept hhost hvalid hcmds hready, performCommand_of_legal hproc]
    rfl
  have haccept := (run_one clockCore s).trans (clock_acceptProc hhost hvalid hcmds hready hproc)
  have hbusy := run_clock_busy_cycles (s := { s with host := rest, cmds := crest }) hidle hfull hheld
  rw [Config.referenceProcCycles, Nat.add_comm]
  exact ⟨_, hstep, (run_add clockCore 1 81 _ _ haccept).trans hbusy⟩

end Sys2Proof.Machine
end

section
/-! Proofs about the host's command sequences (30_encoding.md R81, 40_host_reference.md R101, R107): what a core does when
the host drives a list of commands, said for one machine and used for both, and the sequences made of it. -/

namespace Sys2Proof.Machine

open Sys2Proof

/-! A host that drives a list of commands. -/

/-- The machine whose accepted commands do what `perform` says. -/
def edgeCore (perform : Command → State → Host.Outcome State Fault Refusal) : Host.Core :=
  { State := State, Fault := Fault, Refusal := Refusal, step := edge perform, reset := State.reset }

theorem core_eq_edgeCore : core = edgeCore performCommand := rfl
theorem strictCore_eq_edgeCore : strictCore = edgeCore performStrict := rfl

/-- The state with these levels and commands on the host's side of the ports. -/
def withPorts (hs : List HostDrive) (cs : List Command) (s : State) : State := { s with host := hs, cmds := cs }

/-- A host that drives the commands `cs` from `s` finds the core in `t` after `n` steps, whatever it drives afterwards. -/
def Drives (perform : Command → State → Host.Outcome State Fault Refusal) (cs : List Command) (n : Nat) (s t : State) :
    Prop :=
  ∀ hs ds, (edgeCore perform).run n (withPorts (HostRef.driveAll cs ++ hs) (cs ++ ds) s) = .next (withPorts hs ds t)

/-- An accepted `i` does in `s` what its meaning says, whatever is on the ports. -/
def Executes (perform : Command → State → Host.Outcome State Fault Refusal) (i : Instr) (s : State) : Prop :=
  ∀ hs cs, perform (encode i) (withPorts hs cs s) = exec i (withPorts hs cs s)

/-- A machine that gives every instruction its meaning where it reads no undefined word. -/
def ExecutesDefined (perform : Command → State → Host.Outcome State Fault Refusal) : Prop :=
  ∀ (i : Instr) (s : State), i.wellFormed = true → undefinedRead i s = none → Executes perform i s

theorem executes_performCommand {i : Instr} (hwf : i.wellFormed = true) (s : State) : Executes performCommand i s :=
  fun _ _ => performCommand_of_legal (decodeOfEncode i hwf) _

theorem executesDefined_performCommand : ExecutesDefined performCommand := fun _ s hwf _ => executes_performCommand hwf s

theorem executesDefined_performStrict : ExecutesDefined performStrict := by
  intro i s hwf hdefined hs cs
  have hports : undefinedRead i (withPorts hs cs s) = none :=
    (undefinedRead_congr i (s := withPorts hs cs s) (u := s) rfl rfl rfl).trans hdefined
  rw [performStrict_of_legal (decodeOfEncode i hwf), execStrict_of_defined hports]

/-- No effect looks at the ports. -/
theorem effect_withPorts (i : Instr) (hs : List HostDrive) (cs : List Command) (s : State) :
    effect i (withPorts hs cs s) = withPorts hs cs (effect i s) := by
  cases i <;> rfl

theorem takeResponse_withPorts (ready : Bool) (hs : List HostDrive) (cs : List Command) (s : State) :
    takeResponse ready (withPorts hs cs s) = withPorts hs cs (takeResponse ready s) := by
  cases hslot : s.rspFull && ready <;> simp [takeResponse, withPorts, hslot]

section
variable {perform : Command → State → Host.Outcome State Fault Refusal}

theorem drives_nil (s : State) : Drives perform [] 0 s s := fun _ _ => rfl

theorem Drives.append {cs cs' : List Command} {n k : Nat} {s t u : State} (h : Drives perform cs n s t)
    (h' : Drives perform cs' k t u) : Drives perform (cs ++ cs') (n + k) s u := by
  intro hs ds
  rw [HostRef.driveAll, List.flatMap_append, List.append_assoc, List.append_assoc]
  exact (run_add (edgeCore perform) n k _ _ (h _ _)).trans (h' hs ds)

/-- A driven run read off a state that has the commands on its ports. -/
theorem Drives.run {cs : List Command} {n : Nat} {s t : State} (h : Drives perform cs n s t) {hs : List HostDrive}
    {ds : List Command} (hhost : s.host = HostRef.driveAll cs ++ hs) (hcmds : s.cmds = cs ++ ds) :
    (edgeCore perform).run n s = .next (withPorts hs ds t) := by
  have hrun := h hs ds
  rwa [← hhost, ← hcmds] at hrun

/-- The edge at which the core accepts a driven command. -/
theorem run_one_of_offered {i : Instr} {s : State} (hwf : i.wellFormed = true) (hidle : s.phase = .idle)
    (hfull : s.rspFull = false) (hexec : Executes perform i s) (hs : List HostDrive) (ds : List Command) :
    (edgeCore perform).run 1 (withPorts (offerDrive :: hs) (encode i :: ds) s) =
      .next (withPorts hs ds (effect i s)) := by
  have haccept : edge perform (withPorts (offerDrive :: hs) (encode i :: ds) s) =
      perform (encode i) (withPorts hs ds s) :=
    edge_accept (s := withPorts (offerDrive :: hs) (encode i :: ds) s) rfl rfl rfl
      ((cmdReady_iff _ _).mpr ⟨rfl, hidle, hfull⟩)
  rw [hexec, exec_of_wellFormed hwf, effect_withPorts] at haccept
  exact (run_one (edgeCore perform) _).trans haccept

/-- A command that responds nothing takes one step. -/
theorem drives_write {i : Instr} {s : State} (hwrite : isReadOp (opField (encode i).cw) = false)
    (hwf : i.wellFormed = true) (hidle : s.phase = .idle) (hfull : s.rspFull = false)
    (hexec : Executes perform i s) : Drives perform [encode i] 1 s (effect i s) := by
  intro hs ds
  have hdrive : HostRef.driveAll [encode i] = [offerDrive] := by simp [HostRef.driveAll, HostRef.drive, hwrite]
  rw [hdrive]
  exact run_one_of_offered hwf hidle hfull hexec hs ds

/-- A read takes a step to respond and one in which the host takes the response. -/
theorem drives_read {i : Instr} {s : State} (hread : isReadOp (opField (encode i).cw) = true)
    (hwf : i.wellFormed = true) (hidle : s.phase = .idle) (hfull : s.rspFull = false)
    (hexec : Executes perform i s) (hresponds : (effect i s).rspFull = true) :
    Drives perform [encode i] 2 s (takeResponse true (effect i s)) := by
  intro hs ds
  have hdrive : HostRef.driveAll [encode i] = [offerDrive, takeDrive] := by
    simp [HostRef.driveAll, HostRef.drive, hread]
  have haccept := run_one_of_offered hwf hidle hfull hexec (takeDrive :: hs) ds
  have htake : edge perform (withPorts (takeDrive :: hs) ds (effect i s)) =
      .next (takeResponse true (withPorts hs ds (effect i s))) :=
    edge_pending (withPorts (takeDrive :: hs) ds (effect i s)) ((effect_phase i s).trans hidle) hresponds rfl rfl
  rw [takeResponse_withPorts] at htake
  rw [hdrive]
  exact (run_add (edgeCore perform) 1 1 _ _ haccept).trans ((run_one (edgeCore perform) _).trans htake)

/-! The indices of the sequences: below a limit of R75 an index keeps its value in the seven bits of the field. -/

theorem toNat_index {k : Nat} (hk : k < 128) : (BitVec.ofNat 7 k).toNat = k := by
  rw [BitVec.toNat_ofNat, Nat.mod_eq_of_lt hk]

theorem wellFormed_wrw {j : Nat} (hj : j < 16) (d : Word) : (Instr.wrw (BitVec.ofNat 7 j) d).wellFormed = true :=
  decide_eq_true ((toNat_index (by omega)).trans_le (Nat.le_of_lt_succ hj))

theorem wellFormed_wrh {k : Nat} (hk : k < 5) (d : Word) : (Instr.wrh (BitVec.ofNat 7 k) d).wellFormed = true :=
  decide_eq_true ((toNat_index (by omega)).trans_le (Nat.le_of_lt_succ hk))

theorem wellFormed_rdh {k : Nat} (hk : k < 5) : (Instr.rdh (BitVec.ofNat 7 k)).wellFormed = true :=
  decide_eq_true ((toNat_index (by omega)).trans_le (Nat.le_of_lt_succ hk))

theorem wellFormed_rdw {k : Nat} (hk : k < 80) : (Instr.rdw (BitVec.ofNat 7 k)).wellFormed = true :=
  decide_eq_true ((toNat_index (by omega)).trans_le (Nat.le_of_lt_succ hk))

/-! Loading a block. -/

/-- WRW of the words of `m` at a list of indices takes one step each. -/
theorem drives_writeBlocks (hexec : ExecutesDefined perform) (m : Vector Word 16) {js : List Nat}
    (hjs : ∀ j ∈ js, j < 16) {s : State} (hidle : s.phase = .idle) (hfull : s.rspFull = false) :
    Drives perform (js.map fun j => encode (.wrw (BitVec.ofNat 7 j) (wordAt m j))) js.length s
      { s with M := setWords m js s.M, mDef := setFlags js s.mDef } := by
  induction js generalizing s with
  | nil => exact drives_nil s
  | cons j js ih =>
    have hj : j < 16 := hjs j List.mem_cons_self
    have hwf := wellFormed_wrw hj (wordAt m j)
    have hfirst := drives_write (by rw [encode, opField_commandWord]; rfl) hwf hidle hfull (hexec _ s hwf rfl)
    rw [effect, toNat_index (by omega)] at hfirst
    rw [List.length_cons, Nat.add_comm]
    exact hfirst.append (ih (fun k hk => hjs k (List.mem_cons_of_mem j hk)) hidle hfull)

/-- The state with `m` in the block buffer. -/
def withBlock (m : Vector Word 16) (s : State) : State := { s with M := m, mDef := Vector.replicate 16 true }

/-- R81: LDBLK leaves the block in `M`. -/
theorem drives_loadBlock (hexec : ExecutesDefined perform) (m : Vector Word 16) {s : State} (hidle : s.phase = .idle)
    (hfull : s.rspFull = false) : Drives perform (HostRef.loadBlock m) 16 s (withBlock m s) := by
  have hloaded := drives_writeBlocks hexec m (js := List.range 16) (fun j => List.mem_range.mp) hidle hfull
  rwa [setWords_range, setFlags_range, List.length_range] at hloaded

/-- R81: HASHBLK loads the block and runs PROC. -/
theorem drives_hashBlock (hexec : ExecutesDefined perform) (m : Vector Word 16) {s : State} (hidle : s.phase = .idle)
    (hfull : s.rspFull = false) (hproc : Executes perform .proc (withBlock m s)) :
    Drives perform (HostRef.hashBlock m) 17 s (processBlock (withBlock m s)) :=
  (drives_loadBlock hexec m hidle hfull).append (drives_write rfl rfl hidle hfull hproc)

/-! Reading the digest. -/

/-- The state after the host has taken the responses `ws`; the last of them still stands in `RSP_DATA` (log entry 10). -/
def delivered (ws : List Word) (s : State) : State :=
  { s with rspData := ws.getLastD s.rspData, taken := s.taken ++ ws }

theorem delivered_nil (s : State) : delivered [] s = s := by simp [delivered]

theorem delivered_cons (v : Word) (ws : List Word) (s : State) :
    delivered ws (delivered [v] s) = delivered (v :: ws) s := by
  simp only [delivered, List.getLastD_cons, List.getLastD_nil, List.append_assoc, List.singleton_append]

/-- A response that is taken at once leaves the slot empty, as it was. -/
theorem takeResponse_respond {s : State} (hfull : s.rspFull = false) (v : Word) :
    takeResponse true (respond v s) = delivered [v] s := by
  rw [takeResponse_of_pending (respond_rspFull v s)]
  cases s
  subst hfull
  rfl

/-- RDH of a list of indices delivers those digest registers in order. -/
theorem drives_readDigests {ks : List Nat} (hks : ∀ k ∈ ks, k < 5) {s : State} (hidle : s.phase = .idle)
    (hfull : s.rspFull = false)
    (hexec : ∀ k u, k < 5 → u.hDef = s.hDef → Executes perform (.rdh (BitVec.ofNat 7 k)) u) :
    Drives perform (ks.map fun k => encode (.rdh (BitVec.ofNat 7 k))) (2 * ks.length) s
      (delivered (ks.map (wordAt s.H)) s) := by
  induction ks generalizing s with
  | nil =>
    rw [List.map_nil, List.map_nil, delivered_nil]
    exact drives_nil s
  | cons k ks ih =>
    have hk : k < 5 := hks k List.mem_cons_self
    have hwf : (Instr.rdh (BitVec.ofNat 7 k)).wellFormed = true := wellFormed_rdh hk
    have hfirst := drives_read (by rw [encode, opField_commandWord]; rfl) hwf hidle hfull (hexec k s hk rfl) rfl
    rw [effect, toNat_index (by omega), takeResponse_respond hfull] at hfirst
    have hrest := ih (fun j hj => hks j (List.mem_cons_of_mem k hj)) (s := delivered [wordAt s.H k] s) hidle hfull hexec
    rw [delivered_cons] at hrest
    rw [List.length_cons, Nat.mul_succ, Nat.add_comm]
    exact hfirst.append hrest

/-- The words of an array are read off in index order. -/
theorem toList_eq_map_wordAt {n : Nat} (v : Vector Word n) : v.toList = (List.range n).map (wordAt v) := by
  apply List.ext_getElem
  · simp
  · intro i hi _
    have hi : i < n := by simpa using hi
    simp [wordAt_eq_getElem v i hi]

/-- R81: RDDIGEST takes ten steps. -/
theorem drives_readDigest {s : State} (hidle : s.phase = .idle) (hfull : s.rspFull = false)
    (hexec : ∀ k u, k < 5 → u.hDef = s.hDef → Executes perform (.rdh (BitVec.ofNat 7 k)) u) :
    Drives perform HostRef.readDigest 10 s (delivered s.H.toList s) := by
  rw [toList_eq_map_wordAt]
  exact drives_readDigests (ks := List.range 5) (fun k => List.mem_range.mp) hidle hfull hexec

/-! The sequence for a list of blocks. -/

/-- What HASHBLK of each block in order leaves. -/
def afterBlocks (bs : List (Vector Word 16)) (s : State) : State :=
  bs.foldl (fun u m => processBlock (withBlock m u)) s

/-- The digest is folded over the blocks (R4); nothing of the interface moves, and the validity of `H` stays. -/
theorem afterBlocks_fields (bs : List (Vector Word 16)) (s : State) :
    (afterBlocks bs s).H = bs.foldl compress s.H ∧ (afterBlocks bs s).hDef = s.hDef ∧
      (afterBlocks bs s).status = s.status ∧ (afterBlocks bs s).phase = s.phase ∧
      (afterBlocks bs s).rspFull = s.rspFull ∧ (afterBlocks bs s).taken = s.taken := by
  induction bs generalizing s with
  | nil => exact ⟨rfl, rfl, rfl, rfl, rfl, rfl⟩
  | cons m bs ih => exact ih (processBlock (withBlock m s))

/-- With all of `H` valid PROC reads no undefined word of a loaded block (R210). -/
theorem undefinedRead_proc_withBlock (m : Vector Word 16) {s : State} (hH : s.hDef = Vector.replicate 5 true) :
    undefinedRead .proc (withBlock m s) = none := by
  refine (undefinedRead_proc_eq_none_iff _).mpr ⟨fun i hi => ?_, fun j hj => ?_⟩
  · rw [withBlock, hH, flagAt_eq_getElem _ _ hi, Vector.getElem_replicate]
  · rw [withBlock, flagAt_eq_getElem _ _ hj, Vector.getElem_replicate]

theorem drives_blocks (hexec : ExecutesDefined perform) (bs : List (Vector Word 16)) {s : State}
    (hidle : s.phase = .idle) (hfull : s.rspFull = false) (hH : s.hDef = Vector.replicate 5 true) :
    Drives perform (bs.flatMap HostRef.hashBlock) (17 * bs.length) s (afterBlocks bs s) := by
  induction bs generalizing s with
  | nil => exact drives_nil s
  | cons m bs ih =>
    have hproc : Executes perform .proc (withBlock m s) := hexec .proc _ rfl (undefinedRead_proc_withBlock m hH)
    rw [List.flatMap_cons, List.length_cons, Nat.mul_succ, Nat.add_comm]
    exact (drives_hashBlock hexec m hidle hfull hproc).append
      (ih (s := processBlock (withBlock m s)) hidle hfull hH)

/-- R107: INIT, the blocks, and RDDIGEST, after which the host has the digest of the blocks. -/
theorem drives_hashCommands (hexec : ExecutesDefined perform) (bs : List (Vector Word 16)) {s : State}
    (hidle : s.phase = .idle) (hfull : s.rspFull = false) :
    Drives perform (HostRef.hashCommands bs) (17 * bs.length + 11) s
      (delivered (HostRef.digestOfBlocks bs).toList (afterBlocks bs (effect .init s))) := by
  obtain ⟨hH, hvalid, -, hphase, hslot, -⟩ := afterBlocks_fields bs (effect .init s)
  have hreads (k : Nat) (u : State) (hk : k < 5) (hu : u.hDef = (afterBlocks bs (effect .init s)).hDef) :
      Executes perform (.rdh (BitVec.ofNat 7 k)) u := by
    have hlt : (BitVec.ofNat 7 k).toNat < 5 := (toNat_index (by omega)).trans_lt hk
    refine hexec _ u (wellFormed_rdh hk) ((undefinedRead_rdh_eq_none_iff hlt u).mpr ?_)
    rw [hu, hvalid, flagAt_eq_getElem _ _ hlt, effect, Vector.getElem_replicate]
  have hinit : Drives perform [encode .init] 1 s (effect .init s) :=
    drives_write rfl rfl hidle hfull (hexec .init s rfl rfl)
  have hblocks := drives_blocks hexec bs (s := effect .init s) hidle hfull rfl
  have hread := drives_readDigest (hphase.trans hidle) (hslot.trans hfull) hreads
  rw [hH] at hread
  have hsteps : 17 * bs.length + 11 = 1 + (17 * bs.length + 10) := by omega
  rw [hsteps]
  exact hinit.append (hblocks.append hread)

end

/-! The obligations. -/

/-- Settles O47: the sixteen writes and PROC, whatever `H` holds. -/
theorem hashBlockFoldsOneBlock : Obligations.HashBlockFoldsOneBlock := by
  intro s m rest crest hidle hfull hhost hcmds
  have hrun := (drives_hashBlock executesDefined_performCommand m hidle hfull (executes_performCommand rfl _)).run
    hhost hcmds
  exact ⟨_, hrun, rfl, rfl, rfl, rfl, rfl, rfl, rfl⟩

/-- Settles O48: five reads, each taken before the next, whatever `H` holds. -/
theorem readDigestDeliversInOrder : Obligations.ReadDigestDeliversInOrder := by
  intro s rest crest hidle hfull hhost hcmds
  have hdrives := drives_readDigest hidle hfull fun k u hk _ => executes_performCommand (wellFormed_rdh hk) u
  have hwords : s.H.toList = [s.H[0], s.H[1], s.H[2], s.H[3], s.H[4]] := by
    simp [toList_eq_map_wordAt, List.range_succ, wordAt_eq_getElem]
  exact ⟨_, hdrives.run hhost hcmds, congrArg (s.taken ++ ·) hwords, rfl⟩

/-- Settles O49: INIT makes all of `H` valid and each block is loaded whole, so both machines run the sequence alike. -/
theorem hashSequenceDeliversDigest : Obligations.HashSequenceDeliversDigest := by
  intro s bs rest crest hidle hfull hhost hcmds
  obtain ⟨hH, -, hstatus, hphase, hslot, htaken⟩ := afterBlocks_fields bs (effect .init s)
  have hrun := (drives_hashCommands executesDefined_performCommand bs hidle hfull).run hhost hcmds
  have hstrict := (drives_hashCommands executesDefined_performStrict bs hidle hfull).run hhost hcmds
  exact ⟨_, hrun, hstrict, congrArg (· ++ _) htaken, hH, rfl, rfl, hstatus, hphase.trans hidle, hslot.trans hfull⟩

/-- Settles O53: the length is compared with the capacity before the blocks are made. -/
theorem capacityCheckedFirst : Obligations.CapacityCheckedFirst :=
  fun _ _ _ => ⟨fun h => if_pos h, fun h => if_neg h.not_gt⟩

end Sys2Proof.Machine
end

section
/-! Proofs about the assembler (30_encoding.md R80, R81): what each operand check lets through is well formed, so every
command it emits, but for `.cmd`, decodes. -/

namespace Sys2Proof.Asm

open Sys2Proof Sys2Proof.Machine

/-! Legal command lists. -/

/-- Every command of the list decodes to an instruction. -/
def AllLegal (cs : List Command) : Prop := ∀ c ∈ cs, ∃ i, decode c = .legal i

theorem allLegal_singleton {i : Instr} (hwf : i.wellFormed = true) : AllLegal [encode i] := by
  intro c hc
  obtain rfl := List.mem_singleton.mp hc
  exact ⟨i, decodeOfEncode i hwf⟩

/-- A list of encodings over the indices below a limit. -/
theorem allLegal_map_range {n : Nat} {f : Nat → Instr} (hwf : ∀ k, k < n → (f k).wellFormed = true) :
    AllLegal ((List.range n).map fun k => encode (f k)) := by
  intro c hc
  obtain ⟨k, hk, rfl⟩ := List.mem_map.mp hc
  exact ⟨f k, decodeOfEncode _ (hwf k (List.mem_range.mp hk))⟩

theorem AllLegal.append {cs ds : List Command} (hcs : AllLegal cs) (hds : AllLegal ds) : AllLegal (cs ++ ds) := by
  intro c hc
  obtain hc | hc := List.mem_append.mp hc
  · exact hcs c hc
  · exact hds c hc

theorem allLegal_loadBlock (m : Vector Word 16) : AllLegal (HostRef.loadBlock m) :=
  allLegal_map_range fun _ hk => wellFormed_wrw hk _

theorem allLegal_hashBlock (m : Vector Word 16) : AllLegal (HostRef.hashBlock m) :=
  (allLegal_loadBlock m).append (allLegal_singleton rfl)

theorem allLegal_loadDigest (h : Vector Word 5) : AllLegal (HostRef.loadDigest h) :=
  allLegal_map_range fun _ hk => wellFormed_wrh hk _

theorem allLegal_readDigest : AllLegal HostRef.readDigest := allLegal_map_range fun _ => wellFormed_rdh

theorem allLegal_readSchedule : AllLegal HostRef.readSchedule := allLegal_map_range fun _ => wellFormed_rdw

/-! The operand checks. -/

theorem plain_eq_ok {cs ds : List Command} {ops : List Nat} (h : plain cs ops = .ok ds) : ds = cs := by
  unfold plain at h
  split at h <;> cases h
  rfl

theorem dataWord_eq_ok {d : Nat} {k : Word → Except AsmError (List Command)} {cs : List Command}
    (h : dataWord d k = .ok cs) : k (BitVec.ofNat 32 d) = .ok cs := by
  unfold dataWord at h
  split at h
  · exact h
  · cases h

theorem indexedCommand_eq_ok {limit i : Nat} {f : BitVec 7 → Instr} {cs : List Command}
    (h : indexedCommand limit i f = .ok cs) : i < limit ∧ cs = [encode (f (BitVec.ofNat 7 i))] := by
  unfold indexedCommand at h
  split at h <;> cases h
  exact ⟨‹_›, rfl⟩

theorem dataWords_eq_ok {n : Nat} {ds : List Nat} {k : Vector Word n → List Command} {cs : List Command}
    (h : dataWords n ds k = .ok cs) : ∃ v, cs = k v := by
  unfold dataWords at h
  split at h
  · split at h <;> cases h
    exact ⟨_, rfl⟩
  · cases h

/-- An indexed command that passes its check is legal where every index below the limit is well formed. -/
theorem allLegal_of_indexedCommand {limit i : Nat} {f : BitVec 7 → Instr} {cs : List Command}
    (hwf : ∀ k, k < limit → (f (BitVec.ofNat 7 k)).wellFormed = true) (h : indexedCommand limit i f = .ok cs) :
    AllLegal cs := by
  obtain ⟨hi, rfl⟩ := indexedCommand_eq_ok h
  exact allLegal_singleton (hwf i hi)

theorem allLegal_of_plain {cs ds : List Command} {ops : List Nat} (hcs : AllLegal cs) (h : plain cs ops = .ok ds) :
    AllLegal ds :=
  plain_eq_ok h ▸ hcs

theorem allLegal_of_dataWords {n : Nat} {ds : List Nat} {k : Vector Word n → List Command} {cs : List Command}
    (hk : ∀ v, AllLegal (k v)) (h : dataWords n ds k = .ok cs) : AllLegal cs := by
  obtain ⟨v, rfl⟩ := dataWords_eq_ok h
  exact hk v

/-- Settles O54: form by form, what passes the operand check is a list of encodings of well-formed instructions. -/
theorem assemblerEmitsLegalCommands : Obligations.AssemblerEmitsLegalCommands := by
  refine ⟨by decide, fun f ops cs hf h => ?_⟩
  change AllLegal cs
  unfold assembleForm at h
  split at h
  case h_1 | h_2 | h_3 | h_4 | h_5 => exact allLegal_of_plain (allLegal_singleton rfl) h
  case h_6 => exact allLegal_of_plain allLegal_readDigest h
  case h_7 => exact allLegal_of_plain allLegal_readSchedule h
  case h_8 => exact allLegal_of_indexedCommand (fun _ hk => wellFormed_wrw hk _) (dataWord_eq_ok h)
  case h_9 => exact allLegal_of_indexedCommand (fun _ hk => wellFormed_wrh hk _) (dataWord_eq_ok h)
  case h_10 => exact allLegal_of_indexedCommand (fun _ => wellFormed_rdh) h
  case h_11 => exact allLegal_of_indexedCommand (fun _ => wellFormed_rdw) h
  case h_12 => exact absurd rfl hf
  case h_13 => exact allLegal_of_dataWords allLegal_loadBlock h
  case h_14 => exact allLegal_of_dataWords allLegal_hashBlock h
  case h_15 => exact allLegal_of_dataWords allLegal_loadDigest h
  all_goals cases h

/-- An index from the limit up is refused. -/
theorem indexedCommand_of_ge {limit i : Nat} (h : limit ≤ i) (f : BitVec 7 → Instr) :
    indexedCommand limit i f = .error .badIndex :=
  if_neg h.not_gt

/-- Settles O55: the data operand passes its check, and the index check refuses. -/
theorem assemblerRefusesBadIndex : Obligations.AssemblerRefusesBadIndex := by
  intro i d hd
  have hdata (k : Word → Except AsmError (List Command)) : dataWord d k = k (BitVec.ofNat 32 d) := if_pos hd
  refine ⟨fun hi => ?_, fun hi => ?_, fun hi => indexedCommand_of_ge hi _, fun hi => indexedCommand_of_ge hi _⟩
  · rw [assembleForm, hdata, indexedCommand_of_ge hi]
  · rw [assembleForm, hdata, indexedCommand_of_ge hi]

end Sys2Proof.Asm
end
